-- ==== Sys2Proof/Word.lean ====
section
/-! DEFINITION. The word types of the machine (spec/00_scope.md R6, R8: every value is an unsigned bit field). -/

namespace Sys2Proof

/-- One byte of memory, one general register, one timer (R6). -/
abbrev Byte := BitVec 8

/-- One instruction word; also the width of `PC`, `I`, `OPCODE` and a stack entry (R6, R23 to R27). -/
abbrev Word := BitVec 16

/-- A register field `x` or `y`: every value names one of the 16 general registers (R20, R85). -/
abbrev RegId := BitVec 4

/-- The immediate address field `nnn` (R80, R84). -/
abbrev Addr := BitVec 12

end Sys2Proof
end

