-- ==== Sys2Proof/Config.lean ====
section
/-! DEFINITION. The sizes of the machine (spec/00_scope.md R6), the one parameter the spec leaves open, and the
random byte source. -/

namespace Sys2Proof

/-- `MEM_SIZE` (R6): addresses 0x000 to 0xFFF. -/
abbrev Config.memSize : Nat := 4096

/-- `FONT_BASE` (R6). -/
abbrev Config.fontBase : Nat := 0x050

/-- `LOAD_ADDR` (R6): where the program image is loaded and where execution begins (R58). -/
abbrev Config.loadAddr : Nat := 0x200

/-- `MAX_IMAGE` (R6): 4096 - 0x200 bytes. -/
abbrev Config.maxImage : Nat := 3584

/-- `DISP_W` (R6): columns of the framebuffer. -/
abbrev Config.dispW : Nat := 64

/-- `DISP_H` (R6): rows of the framebuffer. -/
abbrev Config.dispH : Nat := 32

/-- `NKEYS` (R6): slots of the input buffer. -/
abbrev Config.nKeys : Nat := 16

/-- `FLAG_REG` (R6, R21): the register that is also the flag output, VF. -/
abbrev Config.flagReg : RegId := 15

/-- `LOOSE_DECODE` (R7, R87, decision D15): whether decode ignores the operand-free nibbles of groups 0, 5 and 9.
The spec leaves it open, so it has no body: a statement about a run holds for both values. Log entry 2. Safe. -/
opaque Config.looseDecode : Bool

/-- The random byte source (R7, R171, decision D27): the `k`-th draw since the machine was created. A free value with
no body, so that nothing is assumed of a draw beyond being 8 bits. Log entry 3. Safe. -/
opaque Config.rand8 : Nat → Byte

end Sys2Proof
end

