-- ==== Sys2Proof/Syntax.lean ====
section
/-! DEFINITION. The 34 instructions, one constructor per row of spec/opcode_table.json, in the order of
spec/30_encoding.md R96. -/

namespace Sys2Proof

/-- A decoded instruction with its operand fields (R11, R80). `x` and `y` are register fields, `kk` the immediate
byte, `nnn` the immediate address, `n` the count of sprite rows. -/
inductive Instr where
  /-- `CLS`, clear-screen (R231). -/
  | cls
  /-- `RET`, return (R130). -/
  | ret
  /-- `JP addr`, jump (R131). -/
  | jp (nnn : Addr)
  /-- `CALL addr`, call (R132). -/
  | call (nnn : Addr)
  /-- `SE Vx, byte`, skip-if-equal-immediate (R133). -/
  | seImm (x : RegId) (kk : Byte)
  /-- `SNE Vx, byte`, skip-if-not-equal-immediate (R134). -/
  | sneImm (x : RegId) (kk : Byte)
  /-- `SE Vx, Vy`, skip-if-registers-equal (R135). -/
  | seReg (x y : RegId)
  /-- `LD Vx, byte`, load-immediate (R160). -/
  | ldImm (x : RegId) (kk : Byte)
  /-- `ADD Vx, byte`, add-immediate (R161). -/
  | addImm (x : RegId) (kk : Byte)
  /-- `LD Vx, Vy`, move (R162). -/
  | ldReg (x y : RegId)
  /-- `OR Vx, Vy` (R163). -/
  | orReg (x y : RegId)
  /-- `AND Vx, Vy` (R164). -/
  | andReg (x y : RegId)
  /-- `XOR Vx, Vy` (R165). -/
  | xorReg (x y : RegId)
  /-- `ADD Vx, Vy`, add registers (R166). -/
  | addReg (x y : RegId)
  /-- `SUB Vx, Vy`, subtract (R167). -/
  | sub (x y : RegId)
  /-- `SHR Vx {, Vy}`, shift right (R168); `y` is encoded and ignored. -/
  | shr (x y : RegId)
  /-- `SUBN Vx, Vy`, reverse subtract (R169). -/
  | subn (x y : RegId)
  /-- `SHL Vx {, Vy}`, shift left (R170); `y` is encoded and ignored. -/
  | shl (x y : RegId)
  /-- `SNE Vx, Vy`, skip-if-registers-not-equal (R136). -/
  | sneReg (x y : RegId)
  /-- `LD I, addr`, set-index (R200). -/
  | ldI (nnn : Addr)
  /-- `JP V0, addr`, jump-plus-R0 (R137). -/
  | jpV0 (nnn : Addr)
  /-- `RND Vx, byte`, random-and-immediate (R171). -/
  | rnd (x : RegId) (kk : Byte)
  /-- `DRW Vx, Vy, nibble`, draw-sprite (R232); `n` is a count of rows, at most 15 in a well-formed instruction. -/
  | drw (x y : RegId) (n : Nat)
  /-- `SKP Vx`, skip-if-key-pressed (R260). -/
  | skp (x : RegId)
  /-- `SKNP Vx`, skip-if-key-not-pressed (R261). -/
  | sknp (x : RegId)
  /-- `LD Vx, DT`, load-delay-timer (R262). -/
  | ldVxDt (x : RegId)
  /-- `LD Vx, K`, wait-for-key (R263). -/
  | ldVxK (x : RegId)
  /-- `LD DT, Vx`, set-delay-timer (R264). -/
  | ldDtVx (x : RegId)
  /-- `LD ST, Vx`, set-sound-timer (R265). -/
  | ldStVx (x : RegId)
  /-- `ADD I, Vx`, add-to-index (R201). -/
  | addIVx (x : RegId)
  /-- `LD F, Vx`, font-character-address (R202). -/
  | ldFVx (x : RegId)
  /-- `LD B, Vx`, store-BCD (R203). -/
  | ldBVx (x : RegId)
  /-- `LD [I], Vx`, register-dump (R204). -/
  | ldMemVx (x : RegId)
  /-- `LD Vx, [I]`, register-load (R205). -/
  | ldVxMem (x : RegId)
  deriving DecidableEq, Repr

end Sys2Proof
end

