-- ==== Sys2Proof/Decode.lean ====
section
/-! DEFINITION. Decode and encode (spec/30_encoding.md). Every numeric group and sub-operation code below is the
conventional CHIP-8 encoding the spec supplies from general knowledge (R86, R95; 93_implementation_defined.md G1).
UNVERIFIED against the repository; log entry 1. Unsafe. -/

namespace Sys2Proof

/-! ## The fields of a word (R80) -/

/-- `g = op[15:12]`, which selects the group. -/
def fieldG (op : Word) : BitVec 4 := op.extractLsb' 12 4

/-- `x = op[11:8]`. -/
def fieldX (op : Word) : RegId := op.extractLsb' 8 4

/-- `y = op[7:4]`. -/
def fieldY (op : Word) : RegId := op.extractLsb' 4 4

/-- `n = op[3:0]`. -/
def fieldN (op : Word) : BitVec 4 := op.extractLsb' 0 4

/-- `kk = op[7:0]`. -/
def fieldKK (op : Word) : Byte := op.extractLsb' 0 8

/-- `nnn = op[11:0]`. -/
def fieldNNN (op : Word) : Addr := op.extractLsb' 0 12

/-! ## Decode (R86, R87); `none` is the spec's UNHANDLED -/

/-- Group 0: the whole word under strict decode, `kk` alone under loose decode. -/
def decodeGroup0 (loose : Bool) (op : Word) : Option Instr :=
  if op = 0x00E0 ∨ (fieldKK op = 0xE0 ∧ loose = true) then some .cls
  else if op = 0x00EE ∨ (fieldKK op = 0xEE ∧ loose = true) then some .ret
  else none

/-- Group 8: the register ALU group, selected by the low field. -/
def decodeGroup8 (op : Word) : Option Instr :=
  match (fieldN op).toNat with
  | 0x0 => some (.ldReg (fieldX op) (fieldY op))
  | 0x1 => some (.orReg (fieldX op) (fieldY op))
  | 0x2 => some (.andReg (fieldX op) (fieldY op))
  | 0x3 => some (.xorReg (fieldX op) (fieldY op))
  | 0x4 => some (.addReg (fieldX op) (fieldY op))
  | 0x5 => some (.sub (fieldX op) (fieldY op))
  | 0x6 => some (.shr (fieldX op) (fieldY op))
  | 0x7 => some (.subn (fieldX op) (fieldY op))
  | 0xE => some (.shl (fieldX op) (fieldY op))
  | _ => none

/-- Group E: the key skips, selected by the low byte. -/
def decodeGroupE (op : Word) : Option Instr :=
  if fieldKK op = 0x9E then some (.skp (fieldX op))
  else if fieldKK op = 0xA1 then some (.sknp (fieldX op))
  else none

/-- Group F: timers, key wait, index and memory block, selected by the low byte. -/
def decodeGroupF (op : Word) : Option Instr :=
  if fieldKK op = 0x07 then some (.ldVxDt (fieldX op))
  else if fieldKK op = 0x0A then some (.ldVxK (fieldX op))
  else if fieldKK op = 0x15 then some (.ldDtVx (fieldX op))
  else if fieldKK op = 0x18 then some (.ldStVx (fieldX op))
  else if fieldKK op = 0x1E then some (.addIVx (fieldX op))
  else if fieldKK op = 0x29 then some (.ldFVx (fieldX op))
  else if fieldKK op = 0x33 then some (.ldBVx (fieldX op))
  else if fieldKK op = 0x55 then some (.ldMemVx (fieldX op))
  else if fieldKK op = 0x65 then some (.ldVxMem (fieldX op))
  else none

/-- `decode(op)`: total on all 65536 words (R88). Strict (R86) when `loose` is false; R87 when it is true. -/
def decodeWord (loose : Bool) (op : Word) : Option Instr :=
  match (fieldG op).toNat with
  | 0x0 => decodeGroup0 loose op
  | 0x1 => some (.jp (fieldNNN op))
  | 0x2 => some (.call (fieldNNN op))
  | 0x3 => some (.seImm (fieldX op) (fieldKK op))
  | 0x4 => some (.sneImm (fieldX op) (fieldKK op))
  | 0x5 => if fieldN op = 0 ∨ loose = true then some (.seReg (fieldX op) (fieldY op)) else none
  | 0x6 => some (.ldImm (fieldX op) (fieldKK op))
  | 0x7 => some (.addImm (fieldX op) (fieldKK op))
  | 0x8 => decodeGroup8 op
  | 0x9 => if fieldN op = 0 ∨ loose = true then some (.sneReg (fieldX op) (fieldY op)) else none
  | 0xA => some (.ldI (fieldNNN op))
  | 0xB => some (.jpV0 (fieldNNN op))
  | 0xC => some (.rnd (fieldX op) (fieldKK op))
  | 0xD => some (.drw (fieldX op) (fieldY op) (fieldN op).toNat)
  | 0xE => decodeGroupE op
  | 0xF => decodeGroupF op
  | _ => none

/-! ## Bytes (R51, R81): the byte at the lower address is the more significant one -/

/-- The word made of the byte at the lower address and the byte after it. -/
def wordOfBytes (hi lo : Byte) : Word := hi ++ lo

/-- The more significant byte of a word: the one stored at the lower address. -/
def highByte (op : Word) : Byte := op.extractLsb' 8 8

/-- The less significant byte of a word: the one stored at the higher address. -/
def lowByte (op : Word) : Byte := op.extractLsb' 0 8

/-- Why bytes hold no instruction. -/
inductive Reject where
  /-- Fewer than the two bytes every instruction has (R91). Raised by `decodeBytes` only; the machine always fetches two. -/
  | truncated
  /-- The word matches no instruction (R89, R90); the machine reports it and goes on (R306). -/
  | unhandled (op : Word)
  deriving DecidableEq, Repr

/-- Decode the first instruction of a list of bytes, lowest address first; answers it with the bytes after it. -/
def decodeBytes (loose : Bool) : List Byte → Except Reject (Instr × List Byte)
  | hi :: lo :: rest =>
    match decodeWord loose (wordOfBytes hi lo) with
    | some i => .ok (i, rest)
    | none => .error (.unhandled (wordOfBytes hi lo))
  | [] | [_] => .error .truncated

/-! ## Encode (R83, R96) -/

/-- Format `ADDR`: `gggg nnnn nnnn nnnn`. -/
def wordADDR (g : BitVec 4) (nnn : Addr) : Word := g ++ nnn

/-- Formats `XKK` and `XOP`: `gggg xxxx kkkk kkkk`. -/
def wordXKK (g : BitVec 4) (x : RegId) (kk : Byte) : Word := g ++ x ++ kk

/-- Format `XYN`: `gggg xxxx yyyy nnnn`. -/
def wordXYN (g : BitVec 4) (x y : RegId) (n : BitVec 4) : Word := g ++ x ++ y ++ n

/-- The word of an instruction (R96). It encodes a well-formed instruction; the height of an ill-formed `DRW` would
lose its upper bits. -/
def encode : Instr → Word
  | .cls => 0x00E0
  | .ret => 0x00EE
  | .jp nnn => wordADDR 0x1 nnn
  | .call nnn => wordADDR 0x2 nnn
  | .seImm x kk => wordXKK 0x3 x kk
  | .sneImm x kk => wordXKK 0x4 x kk
  | .seReg x y => wordXYN 0x5 x y 0x0
  | .ldImm x kk => wordXKK 0x6 x kk
  | .addImm x kk => wordXKK 0x7 x kk
  | .ldReg x y => wordXYN 0x8 x y 0x0
  | .orReg x y => wordXYN 0x8 x y 0x1
  | .andReg x y => wordXYN 0x8 x y 0x2
  | .xorReg x y => wordXYN 0x8 x y 0x3
  | .addReg x y => wordXYN 0x8 x y 0x4
  | .sub x y => wordXYN 0x8 x y 0x5
  | .shr x y => wordXYN 0x8 x y 0x6
  | .subn x y => wordXYN 0x8 x y 0x7
  | .shl x y => wordXYN 0x8 x y 0xE
  | .sneReg x y => wordXYN 0x9 x y 0x0
  | .ldI nnn => wordADDR 0xA nnn
  | .jpV0 nnn => wordADDR 0xB nnn
  | .rnd x kk => wordXKK 0xC x kk
  | .drw x y n => wordXYN 0xD x y (BitVec.ofNat 4 n)
  | .skp x => wordXKK 0xE x 0x9E
  | .sknp x => wordXKK 0xE x 0xA1
  | .ldVxDt x => wordXKK 0xF x 0x07
  | .ldVxK x => wordXKK 0xF x 0x0A
  | .ldDtVx x => wordXKK 0xF x 0x15
  | .ldStVx x => wordXKK 0xF x 0x18
  | .addIVx x => wordXKK 0xF x 0x1E
  | .ldFVx x => wordXKK 0xF x 0x29
  | .ldBVx x => wordXKK 0xF x 0x33
  | .ldMemVx x => wordXKK 0xF x 0x55
  | .ldVxMem x => wordXKK 0xF x 0x65

/-- The two bytes of an instruction in memory order (R81). -/
def encodeBytes (i : Instr) : List Byte := [highByte (encode i), lowByte (encode i)]

/-! ## The opcode table's numbering -/

/-- The word of an instruction whose bits are `w`, `nbits` of them given by spec/opcode_table.json and the bits above
zero. The table numbers the one 16-bit word from its least significant bit. -/
def tableWord (nbits w : Nat) : Word := BitVec.ofNat 16 (w % 2 ^ nbits)

/-- What the decoder reads from that word laid out in memory order. -/
def decodeTableWord (nbits w : Nat) : Option Instr :=
  match decodeBytes Config.looseDecode [highByte (tableWord nbits w), lowByte (tableWord nbits w)] with
  | .ok (i, _) => some i
  | .error _ => none

end Sys2Proof
end

