-- ==== Sys2Proof/Machine/Flags.lean ====
section
/-! DEFINITION. Every value VF takes as a flag (spec/10_state.md R36); each is computed from the operand values captured
before any write (42_register_alu.md R172). The collision flag of draw-sprite is in Machine/Display.lean. -/

namespace Sys2Proof.Machine

/-- A flag as the byte VF holds: 0 or 1, overwriting, never merged (R21). -/
def flagByte (f : Bool) : Byte := if f then 1 else 0

/-- Carry of an addition: the exact sum exceeds 255 (R166). -/
def carryFlag (a b : Byte) : Bool := decide (255 < a.toNat + b.toNat)

/-- No borrow in `minuend - subtrahend`: the minuend is not the smaller (R167, R169). -/
def noBorrowFlag (minuend subtrahend : Byte) : Bool := decide (subtrahend.toNat ≤ minuend.toNat)

/-- The bit a right shift by one shifts out: bit 0 before the shift (R168). -/
def shiftedOutRight (a : Byte) : Bool := a.getLsbD 0

/-- The bit a left shift by one shifts out: bit 7 before the shift (R170). -/
def shiftedOutLeft (a : Byte) : Bool := a.getLsbD 7

end Sys2Proof.Machine
end

