-- ==== Sys2Proof/Machine/State.lean ====
section
/-! DEFINITION. The state of the core as plain data (spec/10_state.md), what the agents may do to it, what it puts
out, the reasons a step can stop, and the state after initialisation. -/

namespace Sys2Proof.Machine

/-- Main memory: the cells that differ from what they read as after initialisation, addresses strictly rising
(`Memory.wf` in Machine/Memory.lean). -/
abbrev Memory := List Host.Cell

/-- `FB[r][c]`: 32 rows of 64 pixels, true = on (R29, R230). -/
abbrev FrameBuffer := Vector (Vector Bool 64) 32

/-- The conditions of spec/60_exceptions.md R301, by name. -/
inductive FaultCode where
  | stackOverflow
  | stackUnderflow
  | memoryOutOfRange
  | keyIndexOutOfRange
  deriving DecidableEq, Repr

/-- The numeric codes of the fatal conditions (R301). -/
def FaultCode.number : FaultCode → Nat
  | .stackOverflow => 1
  | .stackUnderflow => 2
  | .memoryOutOfRange => 3
  | .keyIndexOutOfRange => 4

/-- `FAULT = (code, pc, opcode, info)` (R32, R303). -/
structure FaultRecord where
  /-- The condition. -/
  code : FaultCode
  /-- The fetch address of the instruction that faulted; for a fetch fault, the `PC` that could not be fetched. -/
  pc : Word
  /-- The fetched word, or none for a fetch fault. -/
  opcode : Option Word
  /-- The lowest out-of-range address, or the key index; none for the stack faults (R301). -/
  info : Option Nat
  deriving DecidableEq, Repr

/-- One action of an agent: the inward ports of R327. -/
inductive Event where
  /-- The external caller requests one engine cycle (R110). -/
  | cycle
  /-- The timer loop takes one tick (R318). -/
  | tick
  /-- The input loop writes key slot `k` (R320). -/
  | keyWrite (k : Fin 16) (v : Bool)
  /-- The display loop reads the whole grid (R322). -/
  | frameRead
  /-- The display/input loop ends the run (R323). -/
  | quit
  deriving DecidableEq, Repr

/-- One event on an outward port of R327. -/
inductive Output where
  /-- `UnhandledInstruction(pc, op)` (R306). -/
  | report (pc op : Word)
  /-- One tone event (R317). -/
  | tone
  /-- The picture a frame read outputs (R322). -/
  | picture (fb : FrameBuffer)
  deriving DecidableEq, Repr

/-- The machine. The first thirteen fields are the spec's (10_state.md section 1); the last four are the model's own. -/
structure State where
  /-- `V[0]` to `V[15]` (R20). -/
  v : Vector Byte 16
  /-- The index register `I` (R23). -/
  i : Word
  /-- The program counter `PC` (R24). -/
  pc : Word
  /-- The stack pointer `SP`, the count of occupied entries, 0 to 16 (R25). Log entry 13. -/
  sp : Fin 17
  /-- The call stack `S[0]` to `S[15]` (R25, R26). -/
  stack : Vector Word 16
  /-- `OPCODE`, the most recently fetched word (R27). -/
  opcode : Word
  /-- Main memory `M` (R31). -/
  mem : Memory
  /-- The delay timer `DT` (R28). -/
  dt : Byte
  /-- The sound timer `ST` (R28). -/
  st : Byte
  /-- The framebuffer `FB` (R29). -/
  fb : FrameBuffer
  /-- The input buffer `K`, true = down (R30). -/
  keys : Vector Bool 16
  /-- `HALTED` (R32). -/
  halted : Bool
  /-- `FAULT` (R32). -/
  fault : Option FaultRecord
  /-- MODEL'S OWN: how many random bytes have been drawn; indexes `Config.rand8` (log entry 3). -/
  draws : Nat
  /-- MODEL'S OWN: the actions of the agents still to be taken, oldest first; when empty, the next action is an engine
  cycle (log entry 6). -/
  pending : List Event
  /-- MODEL'S OWN: the output events so far, newest first (log entry 8). -/
  output : List Output
  /-- MODEL'S OWN: a quit has been taken (R323; log entry 9). -/
  ended : Bool
  deriving DecidableEq, Repr

/-- The reasons `step` stops with a fault. The four fatal conditions of R301 are not here: their entry is a next state
(R302), and it is the step after it that stops. -/
inductive Fault where
  /-- Raised by `step` alone, when `HALTED` is true: "While `HALTED` is true the engine takes no step" (R32, R115) and no
  other agent does (R302). It carries the record that stopped the run. Safe: nothing can be proved of a run past it. -/
  | halted (record : Option FaultRecord)
  deriving DecidableEq, Repr

/-- The reasons for a refusal. -/
inductive Refusal where
  /-- Raised by an arm of `exec` whose instruction has no meaning yet. No arm does. Safe. -/
  | notModelled (mnemonic : String)
  /-- Raised by `init` alone: `ImageTooLarge(len)`, no machine is created (R341, U2). Safe. -/
  | imageTooLarge (len : Nat)
  /-- Raised by `step` alone, after a quit: "no agent takes a further step, and the state at that point is final" (R323).
  Safe. -/
  | runEnded
  deriving DecidableEq, Repr

/-- The outcome of an instruction, of a cycle, of a step. -/
abbrev Result := Host.Outcome State Fault Refusal

/-- The grid with every pixel off. -/
def FrameBuffer.blank : FrameBuffer := Vector.replicate 32 (Vector.replicate 64 false)

/-- The machine right after initialisation with the default font and an empty image (R34, R342; log entry 5). Every
value is the spec's but the last four, the model's own fields. -/
def State.reset : State where
  v := Vector.replicate 16 0
  i := 0
  pc := 0x200
  sp := 0
  stack := Vector.replicate 16 0
  opcode := 0
  mem := []
  dt := 0
  st := 0
  fb := FrameBuffer.blank
  keys := Vector.replicate 16 false
  halted := false
  fault := none
  draws := 0
  pending := []
  output := []
  ended := false

end Sys2Proof.Machine
end

