-- ==== Sys2Proof/Machine/Memory.lean ====
section
/-! DEFINITION. Main memory (spec/20_memory.md) as a canonical list of cells: what an unlisted address reads as, the
one-byte read and write, and runs of bytes. -/

namespace Sys2Proof.Machine

/-- The conventional CHIP-8 font, the default of the parameter `FONT` (70_reset_and_hazards.md R343). UNVERIFIED: the
spec supplies the bytes from general knowledge (G3). Log entry 4. Unsafe for claims about pictures drawn from it. -/
def defaultFont : List Byte :=
  [0xF0, 0x90, 0x90, 0x90, 0xF0] ++ -- 0
  [0x20, 0x60, 0x20, 0x20, 0x70] ++ -- 1
  [0xF0, 0x10, 0xF0, 0x80, 0xF0] ++ -- 2
  [0xF0, 0x10, 0xF0, 0x10, 0xF0] ++ -- 3
  [0x90, 0x90, 0xF0, 0x10, 0x10] ++ -- 4
  [0xF0, 0x80, 0xF0, 0x10, 0xF0] ++ -- 5
  [0xF0, 0x80, 0xF0, 0x90, 0xF0] ++ -- 6
  [0xF0, 0x10, 0x20, 0x40, 0x40] ++ -- 7
  [0xF0, 0x90, 0xF0, 0x90, 0xF0] ++ -- 8
  [0xF0, 0x90, 0xF0, 0x10, 0xF0] ++ -- 9
  [0xF0, 0x90, 0xF0, 0x90, 0x90] ++ -- A
  [0xE0, 0x90, 0xE0, 0x90, 0xE0] ++ -- B
  [0xF0, 0x80, 0x80, 0x80, 0xF0] ++ -- C
  [0xE0, 0x90, 0x90, 0x90, 0xE0] ++ -- D
  [0xF0, 0x80, 0xF0, 0x80, 0xF0] ++ -- E
  [0xF0, 0x80, 0xF0, 0x80, 0x80]    -- F

/-- What an unlisted address reads as: its contents after initialisation with the default font and an empty image (R34,
R56): the font at 0x050 to 0x09F, 0 elsewhere. Log entry 12. -/
def Memory.unlisted (a : Nat) : Byte :=
  if a < Config.fontBase then 0 else defaultFont.getD (a - Config.fontBase) 0

/-- `MemRead(a, 1)` (R10): the byte `M[a]`. Its users check `a < 4096` first (R53). -/
def Memory.read : Memory → Nat → Byte
  | [], a => Memory.unlisted a
  | (k, b) :: rest, a => if a = k then b else Memory.read rest a

/-- Put a cell in front of cells at higher addresses, unless it says what an unlisted address reads as anyway. -/
def Memory.consCell (a : Nat) (b : Byte) (rest : Memory) : Memory :=
  if b = Memory.unlisted a then rest else (a, b) :: rest

/-- `MemWrite(a, 1, b)` (R10): `M[a] <- b`, keeping the canonical form. Its users check `a < 4096` first (R53). -/
def Memory.write : Memory → Nat → Byte → Memory
  | [], a, b => Memory.consCell a b []
  | (k, c) :: rest, a, b =>
    if a < k then Memory.consCell a b ((k, c) :: rest)
    else if a = k then Memory.consCell a b rest
    else (k, c) :: Memory.write rest a b

/-- The cells lie at strictly rising addresses from `lo` on and below 4096, and none says what an unlisted address reads
as. -/
def Memory.wfFrom : Nat → Memory → Bool
  | _, [] => true
  | lo, (a, b) :: rest =>
    decide (lo ≤ a) && decide (a < Config.memSize) && decide (b ≠ Memory.unlisted a) && Memory.wfFrom (a + 1) rest

/-- The canonical form: equal memories are equal lists. -/
def Memory.wf (m : Memory) : Bool := Memory.wfFrom 0 m

/-- The bytes at `base`, `base + 1`, ..., `count` of them (R52: one at a time, each at its own address). -/
def Memory.readBlock (m : Memory) (base count : Nat) : List Byte :=
  (List.range count).map fun k => m.read (base + k)

/-- Write a list of bytes one at a time at `base`, `base + 1`, ... (R52). -/
def Memory.writeBlock : Memory → Nat → List Byte → Memory
  | m, _, [] => m
  | m, base, b :: rest => Memory.writeBlock (m.write base b) (base + 1) rest

end Sys2Proof.Machine
end

