-- ==== Sys2Proof/Machine/Operands.lean ====
section
/-! DEFINITION. Every operand form of the 34 instructions: register and immediate operands, targets, `I`-based blocks
with their range check, key indices, and the data forms built from operands. -/

namespace Sys2Proof.Machine

/-- A register operand `V[x]` (R85). -/
def State.reg (s : State) (x : RegId) : Byte := s.v[x.toNat]'x.isLt

/-- `zext_16(nnn)`: the immediate address where it is written to `PC` or `I` (R84). -/
def zext16 (nnn : Addr) : Word := nnn.setWidth 16

/-- The target of jump-plus-R0 (R137): `(zext_16(nnn) + zext_16(V[0])) mod 2^16`, not reduced to 12 bits (D5). -/
def State.targetV0 (s : State) (nnn : Addr) : Word := zext16 nnn + (s.reg 0).setWidth 16

/-- The effective address of byte `k` of a block based at `I`: the natural number `I + k`, without wrap (R54, R206). -/
def State.blockAddr (s : State) (k : Nat) : Nat := s.i.toNat + k

/-- `CheckAddr(base), CheckAddr(base + 1), ...` for `count` bytes (R53): the first, so the lowest, of these addresses that
is out of range, or none. -/
def checkBlock (base count : Nat) : Option Nat :=
  ((List.range count).map (base + ·)).find? fun a => decide (Config.memSize ≤ a)

/-- The index register after font-character-address: `0x050 + 5 * v`, `v` not reduced to a hex digit (R202, D8). -/
def glyphAddr (v : Byte) : Word := BitVec.ofNat 16 (Config.fontBase + 5 * v.toNat)

/-- The decimal hundreds, tens and ones digits of a byte (R203). -/
def bcdDigits (v : Byte) : List Byte :=
  [BitVec.ofNat 8 (v.toNat / 100), BitVec.ofNat 8 (v.toNat / 10 % 10), BitVec.ofNat 8 (v.toNat % 10)]

/-- `V[0]` to `V[x]`, the bytes of a register dump (R204). -/
def State.regsUpTo (s : State) (x : RegId) : List Byte := s.v.toList.take (x.toNat + 1)

/-- The key slot a key instruction indexes (R266): none when the index is 16 or more. -/
def State.keyAt (s : State) (k : Nat) : Option Bool := s.keys[k]?

/-- The lowest-indexed pressed key of one snapshot of the input buffer (R263, D21). -/
def State.lowestKey (s : State) : Option Nat :=
  (List.range Config.nKeys).find? fun k => s.keyAt k == some true

end Sys2Proof.Machine
end

