-- ==== Sys2Proof/Machine/Ops.lean ====
section
/-! DEFINITION. The named operations over registers, stack, memory and shared items that the meanings call; taking a
fault; fetching. There is no return from a fault (spec/60_exceptions.md R300, R308). -/

namespace Sys2Proof.Machine

/-! ## Registers -/

/-- `V[x] <- b`. -/
def State.setReg (s : State) (x : RegId) (b : Byte) : State := { s with v := s.v.set x.toNat b x.isLt }

/-- `V[x] <- r`, then `V[15] <- f`: result first, flag second, so that with `x = 15` VF ends holding the flag (R173). -/
def State.setResultFlag (s : State) (x : RegId) (r : Byte) (f : Bool) : State :=
  (s.setReg x r).setReg Config.flagReg (flagByte f)

/-- `I <- w`. -/
def State.setIndex (s : State) (w : Word) : State := { s with i := w }

/-- `PC <- w`. No check: a value that cannot be fetched from faults at the next fetch (R117, R140). -/
def State.setPc (s : State) (w : Word) : State := { s with pc := w }

/-- Skip (R138): when the condition holds, `PC <- (PC + 2) mod 2^16`. -/
def State.skipIf (s : State) (c : Bool) : State := if c then s.setPc (s.pc + 2) else s

/-- Back to the instruction's own address (R263): `PC <- (PC - 2) mod 2^16`. -/
def State.rewind (s : State) : State := s.setPc (s.pc - 2)

/-! ## The call stack (R25, R26) -/

/-- `S[SP] <- PC; SP <- SP + 1`; none when `SP == 16`. -/
def State.push (s : State) : Option State :=
  if h : s.sp.val < 16 then some { s with stack := s.stack.set s.sp.val s.pc h, sp := ⟨s.sp.val + 1, by omega⟩ }
  else none

/-- `SP <- SP - 1; PC <- S[SP]`; none when `SP == 0`. The popped entry keeps its value. -/
def State.pop (s : State) : Option State :=
  if h : s.sp.val = 0 then none
  else some { s with
    sp := ⟨s.sp.val - 1, by omega⟩,
    pc := s.stack[s.sp.val - 1]'(by omega) }

/-! ## Memory -/

/-- Store a list of bytes from `I` on (R206); `I` is unchanged. -/
def State.storeAtIndex (s : State) (bytes : List Byte) : State :=
  { s with mem := s.mem.writeBlock (s.blockAddr 0) bytes }

/-- `V[0..x] <- M[I..I+x]` (R205); `I` is unchanged. -/
def State.loadRegs (s : State) (x : RegId) : State :=
  { s with v := s.v.mapIdx fun j old => if j ≤ x.toNat then s.mem.read (s.blockAddr j) else old }

/-! ## Shared items -/

/-- `DT <- b`. -/
def State.setDt (s : State) (b : Byte) : State := { s with dt := b }

/-- `ST <- b`. -/
def State.setSt (s : State) (b : Byte) : State := { s with st := b }

/-- The whole grid at once, as one critical section writes it (R67). -/
def State.setFb (s : State) (fb : FrameBuffer) : State := { s with fb := fb }

/-- An event on an output port (R327); newest first. -/
def State.emit (s : State) (o : Output) : State := { s with output := o :: s.output }

/-! ## The random byte (R171) -/

/-- `rand8()`: one fresh free value. -/
def State.rand8 (s : State) : Byte := Config.rand8 s.draws

/-- The draw has been taken. -/
def State.drawn (s : State) : State := { s with draws := s.draws + 1 }

/-! ## Taking a fault (R302, R303, R304) -/

/-- Fault entry: `HALTED <- true` and `FAULT <- record`; nothing else is written. -/
def State.halt (s : State) (r : FaultRecord) : State := { s with halted := true, fault := some r }

/-- The record of a fault raised in execution: during an instruction `PC` is the fetch address plus 2 and `OPCODE` the
fetched word (R112, R113), so the fetch address is `PC - 2`. -/
def State.recordOf (s : State) (code : FaultCode) (info : Option Nat) : FaultRecord :=
  { code := code, pc := s.pc - 2, opcode := some s.opcode, info := info }

/-- `raise F(info)` from an instruction: a next state, halted. -/
def State.raise (s : State) (code : FaultCode) (info : Option Nat) : Result :=
  .next (s.halt (s.recordOf code info))

/-- `raise MemoryOutOfRange(a)` from a fetch (R111): the record holds the `PC` that could not be fetched and no word. -/
def State.raiseFetch (s : State) (a : Nat) : Result :=
  .next (s.halt { code := .memoryOutOfRange, pc := s.pc, opcode := none, info := some a })

/-- Check the `count` bytes from `I` on, then go on in `t`; raise `MemoryOutOfRange` with the lowest address out of range
before anything is read or written (R53, R304, R305). -/
def State.guardBlock (s : State) (count : Nat) (t : State) : Result :=
  match checkBlock (s.blockAddr 0) count with
  | some a => s.raise .memoryOutOfRange (some a)
  | none => .next t

/-! ## Fetch (R111 to R113) -/

/-- The word at `PC`, big-endian (R51); or the first of the two addresses that is out of range. -/
def State.fetch (s : State) : Except Nat Word :=
  match checkBlock s.pc.toNat 2 with
  | some a => .error a
  | none => .ok (wordOfBytes (s.mem.read s.pc.toNat) (s.mem.read (s.pc.toNat + 1)))

/-- `OPCODE <- op; PC <- (PC + 2) mod 2^16`: the state in which every instruction executes. -/
def State.advance (s : State) (op : Word) : State := { s with opcode := op, pc := s.pc + 2 }

end Sys2Proof.Machine
end

