-- ==== Sys2Proof/Machine/Agents.lean ====
section
/-! DEFINITION. The actions of the timer loop and the display/input loop (spec/60_exceptions.md R315 to R323). Each is one
atomic action (20_memory.md R63). -/

namespace Sys2Proof.Machine

/-- R316: `DT` is decremented if non-zero. -/
def State.tickDelay (s : State) : State := if s.dt = 0 then s else s.setDt (s.dt - 1)

/-- R317: if `ST` is non-zero, a tone event and a decrement. -/
def State.tickSound (s : State) : State := if s.st = 0 then s else (s.emit .tone).setSt (s.st - 1)

/-- R318: one tick is R316 and then R317, taken as one action. Log entry 7. -/
def State.tick (s : State) : State := s.tickDelay.tickSound

/-- R320: `K[k] <- v`. -/
def State.keyWrite (s : State) (k : Fin 16) (v : Bool) : State := { s with keys := s.keys.set k.val v k.isLt }

/-- R322: one snapshot of the whole grid, put out as a picture. -/
def State.frameRead (s : State) : State := s.emit (.picture s.fb)

/-- R323: the run ends, with no fault. -/
def State.quit (s : State) : State := { s with ended := true }

end Sys2Proof.Machine
end

