-- ==== Sys2Proof/Machine/Alu.lean ====
section
/-! DEFINITION. The register ALU and random (spec/42_register_alu.md). Operand values are captured before any register
is written (R172); the forms without a flag leave VF alone unless it is their destination (R175). -/

namespace Sys2Proof.Machine

/-- R160, `LD Vx, byte`. -/
def execLdImm (x : RegId) (kk : Byte) (s : State) : Result := .next (s.setReg x kk)

/-- R161, `ADD Vx, byte`: wraps, no flag. -/
def execAddImm (x : RegId) (kk : Byte) (s : State) : Result := .next (s.setReg x (s.reg x + kk))

/-- R162, `LD Vx, Vy`. -/
def execLdReg (x y : RegId) (s : State) : Result := .next (s.setReg x (s.reg y))

/-- R163, `OR Vx, Vy`. -/
def execOr (x y : RegId) (s : State) : Result := .next (s.setReg x (s.reg x ||| s.reg y))

/-- R164, `AND Vx, Vy`. -/
def execAnd (x y : RegId) (s : State) : Result := .next (s.setReg x (s.reg x &&& s.reg y))

/-- R165, `XOR Vx, Vy`. -/
def execXor (x y : RegId) (s : State) : Result := .next (s.setReg x (s.reg x ^^^ s.reg y))

/-- R166, `ADD Vx, Vy`: VF = carry. -/
def execAddReg (x y : RegId) (s : State) : Result :=
  .next (s.setResultFlag x (s.reg x + s.reg y) (carryFlag (s.reg x) (s.reg y)))

/-- R167, `SUB Vx, Vy`: the minuend is `V[x]`; VF = no borrow. -/
def execSub (x y : RegId) (s : State) : Result :=
  .next (s.setResultFlag x (s.reg x - s.reg y) (noBorrowFlag (s.reg x) (s.reg y)))

/-- R168, `SHR Vx`: shifts `V[x]` in place and ignores `y` (D9); VF = the bit shifted out. -/
def execShr (x _y : RegId) (s : State) : Result :=
  .next (s.setResultFlag x (s.reg x >>> 1) (shiftedOutRight (s.reg x)))

/-- R169, `SUBN Vx, Vy`: the minuend is `V[y]`; VF = no borrow. -/
def execSubn (x y : RegId) (s : State) : Result :=
  .next (s.setResultFlag x (s.reg y - s.reg x) (noBorrowFlag (s.reg y) (s.reg x)))

/-- R170, `SHL Vx`: shifts `V[x]` in place and ignores `y` (D9); VF = the bit shifted out. -/
def execShl (x _y : RegId) (s : State) : Result :=
  .next (s.setResultFlag x (s.reg x <<< 1) (shiftedOutLeft (s.reg x)))

/-- R171, `RND Vx, byte`: `V[x] <- rand8() & kk`. -/
def execRnd (x : RegId) (kk : Byte) (s : State) : Result := .next (s.drawn.setReg x (s.rand8 &&& kk))

end Sys2Proof.Machine
end

