-- ==== Sys2Proof/Machine/Control.lean ====
section
/-! DEFINITION. Control flow (spec/41_control_flow.md). In every meaning `PC` is the fetch address plus 2 (R113). -/

namespace Sys2Proof.Machine

/-- R130, `RET`: pop the top stack entry into `PC`; `StackUnderflow` when the stack is empty. -/
def execRet (s : State) : Result :=
  match s.pop with
  | some t => .next t
  | none => s.raise .stackUnderflow none

/-- R131, `JP addr`: `PC <- zext_16(nnn)`. -/
def execJp (nnn : Addr) (s : State) : Result := .next (s.setPc (zext16 nnn))

/-- R132, `CALL addr`: push `PC`, then `PC <- zext_16(nnn)`; `StackOverflow` when the stack is full. -/
def execCall (nnn : Addr) (s : State) : Result :=
  match s.push with
  | some t => .next (t.setPc (zext16 nnn))
  | none => s.raise .stackOverflow none

/-- R133, `SE Vx, byte`. -/
def execSeImm (x : RegId) (kk : Byte) (s : State) : Result := .next (s.skipIf (s.reg x == kk))

/-- R134, `SNE Vx, byte`. -/
def execSneImm (x : RegId) (kk : Byte) (s : State) : Result := .next (s.skipIf (s.reg x != kk))

/-- R135, `SE Vx, Vy`. -/
def execSeReg (x y : RegId) (s : State) : Result := .next (s.skipIf (s.reg x == s.reg y))

/-- R136, `SNE Vx, Vy`. -/
def execSneReg (x y : RegId) (s : State) : Result := .next (s.skipIf (s.reg x != s.reg y))

/-- R137, `JP V0, addr`: `PC <- nnn + V[0]`. -/
def execJpV0 (nnn : Addr) (s : State) : Result := .next (s.setPc (s.targetV0 nnn))

end Sys2Proof.Machine
end

