-- ==== Sys2Proof/Machine/Display.lean ====
section
/-! DEFINITION. The framebuffer, clear-screen and draw-sprite (spec/44_display.md). -/

namespace Sys2Proof.Machine

/-- `FB[r][c]`; off outside the grid. -/
def pixel (fb : FrameBuffer) (r c : Nat) : Bool :=
  if h : r < 32 ∧ c < 64 then (fb[r]'h.1)[c]'h.2 else false

/-- `FB[r][c] <- FB[r][c] ^ 1`; nothing outside the grid, where a sprite pixel is clipped (R235). -/
def togglePixel (fb : FrameBuffer) (r c : Nat) : FrameBuffer :=
  if h : r < 32 ∧ c < 64 then fb.set r ((fb[r]'h.1).set c (!(fb[r]'h.1)[c]'h.2) h.2) h.1 else fb

/-- The pixel of a sprite byte at column `b` of 0 to 7: bit `7 - b`, the most significant bit leftmost (R233, D13). -/
def spriteBit (byte : Byte) (b : Nat) : Bool := byte.getLsbD (7 - b)

/-- Composite one sprite pixel at row `py`, column `cx + b`: clipped outside the grid; a pixel of value 1 toggles the
screen pixel, and collides if it was set. -/
def drawBit (py cx : Nat) (byte : Byte) (acc : FrameBuffer × Bool) (b : Nat) : FrameBuffer × Bool :=
  if spriteBit byte b then (togglePixel acc.1 py (cx + b), acc.2 || pixel acc.1 py (cx + b)) else acc

/-- Composite one sprite byte on row `py`, columns `cx` to `cx + 7`. -/
def drawRow (py cx : Nat) (byte : Byte) (acc : FrameBuffer × Bool) : FrameBuffer × Bool :=
  (List.range 8).foldl (drawBit py cx byte) acc

/-- Composite the sprite bytes on rows `py`, `py + 1`, ... -/
def drawRows (cx : Nat) : List Byte → Nat → FrameBuffer × Bool → FrameBuffer × Bool
  | [], _, acc => acc
  | byte :: rest, py, acc => drawRows cx rest (py + 1) (drawRow py cx byte acc)

/-- Draw `n` sprite bytes from `I` at `(V[x] mod 64, V[y] mod 32)`, both captured before VF is written (D12), then write
the collision flag to VF. -/
def State.drawSprite (s : State) (x y : RegId) (n : Nat) : State :=
  let drawn := drawRows ((s.reg x).toNat % Config.dispW) (s.mem.readBlock (s.blockAddr 0) n)
    ((s.reg y).toNat % Config.dispH) (s.fb, false)
  (s.setFb drawn.1).setReg Config.flagReg (flagByte drawn.2)

/-- R231, `CLS`. -/
def execCls (s : State) : Result := .next (s.setFb FrameBuffer.blank)

/-- R232, `DRW Vx, Vy, nibble`: every sprite byte, clipped or not, is range-checked first (D12). -/
def execDrw (x y : RegId) (n : Nat) (s : State) : Result := s.guardBlock n (s.drawSprite x y n)

end Sys2Proof.Machine
end

