-- ==== Sys2Proof/Machine/Index.lean ====
section
/-! DEFINITION. The index register and the memory block (spec/43_index_memory.md). The block forms check every address
before the first access and leave `I` unchanged (R206). -/

namespace Sys2Proof.Machine

/-- R200, `LD I, addr`. -/
def execLdI (nnn : Addr) (s : State) : Result := .next (s.setIndex (zext16 nnn))

/-- R201, `ADD I, Vx`: 16 bits, no flag. -/
def execAddIVx (x : RegId) (s : State) : Result := .next (s.setIndex (s.i + (s.reg x).setWidth 16))

/-- R202, `LD F, Vx`. -/
def execLdFVx (x : RegId) (s : State) : Result := .next (s.setIndex (glyphAddr (s.reg x)))

/-- R203, `LD B, Vx`. -/
def execLdBVx (x : RegId) (s : State) : Result := s.guardBlock 3 (s.storeAtIndex (bcdDigits (s.reg x)))

/-- R204, `LD [I], Vx`. -/
def execLdMemVx (x : RegId) (s : State) : Result := s.guardBlock (x.toNat + 1) (s.storeAtIndex (s.regsUpTo x))

/-- R205, `LD Vx, [I]`. -/
def execLdVxMem (x : RegId) (s : State) : Result := s.guardBlock (x.toNat + 1) (s.loadRegs x)

end Sys2Proof.Machine
end

