-- ==== Sys2Proof/Machine/Input.lean ====
section
/-! DEFINITION. Input and timer instructions (spec/45_input_timer.md). -/

namespace Sys2Proof.Machine

/-- The key skips (R266): read slot `V[x]` and skip when its value is `want`; `KeyIndexOutOfRange` for an index of 16 or
more. -/
def State.skipOnKey (s : State) (x : RegId) (want : Bool) : Result :=
  match s.keyAt (s.reg x).toNat with
  | some p => .next (s.skipIf (p == want))
  | none => s.raise .keyIndexOutOfRange (some (s.reg x).toNat)

/-- R260, `SKP Vx`: skip if the slot is down. -/
def execSkp (x : RegId) (s : State) : Result := s.skipOnKey x true

/-- R261, `SKNP Vx`: skip if the slot is up. -/
def execSknp (x : RegId) (s : State) : Result := s.skipOnKey x false

/-- R262, `LD Vx, DT`. -/
def execLdVxDt (x : RegId) (s : State) : Result := .next (s.setReg x s.dt)

/-- R263, `LD Vx, K`: store the lowest pressed key, or go back to this instruction: a busy poll, one full cycle each. -/
def execLdVxK (x : RegId) (s : State) : Result :=
  match s.lowestKey with
  | some k => .next (s.setReg x (BitVec.ofNat 8 k))
  | none => .next s.rewind

/-- R264, `LD DT, Vx`. -/
def execLdDtVx (x : RegId) (s : State) : Result := .next (s.setDt (s.reg x))

/-- R265, `LD ST, Vx`. -/
def execLdStVx (x : RegId) (s : State) : Result := .next (s.setSt (s.reg x))

end Sys2Proof.Machine
end

