-- ==== Sys2Proof/Machine/Cycle.lean ====
section
/-! DEFINITION. The engine cycle (spec/40_cycle.md R118), the action each event stands for, and placing a word where the
next cycle fetches it. -/

namespace Sys2Proof.Machine

/-- Execute what was decoded: an instruction by its meaning, an UNHANDLED word by its report (R114, R306). `at` is the
fetch address. -/
def State.execute (s : State) (fetchedAt op : Word) : Option Instr → Result
  | some i => exec i s
  | none => .next (s.emit (.report fetchedAt op))

/-- R118: fetch, `OPCODE`, `PC` advance, decode, execute. A fetch fault has no other effect (R111). -/
def State.cycle (s : State) : Result :=
  match s.fetch with
  | .error a => s.raiseFetch a
  | .ok op => (s.advance op).execute s.pc op (decodeWord Config.looseDecode op)

/-- One action of one agent (R63). -/
def State.act (s : State) : Event → Result
  | .cycle => s.cycle
  | .tick => .next s.tick
  | .keyWrite k v => .next (s.keyWrite k v)
  | .frameRead => .next s.frameRead
  | .quit => .next s.quit

/-- The action taken next: the oldest pending one, or an engine cycle when none is pending. Log entry 6. -/
def State.nextEvent (s : State) : Event := s.pending.headD .cycle

/-- The state in which it is taken: it is no longer pending. -/
def State.popEvent (s : State) : State := { s with pending := s.pending.tail }

/-- `op` in the two bytes at `PC` (R81), where both exist. -/
def State.placeWord (s : State) (op : Word) : State :=
  match checkBlock s.pc.toNat 2 with
  | some _ => s
  | none => { s with mem := s.mem.writeBlock s.pc.toNat [highByte op, lowByte op] }

/-- Make the next step an engine cycle: the machine runs, and a cycle comes before whatever is pending. -/
def State.readyToCycle (s : State) : State :=
  { s with
    halted := false
    fault := none
    ended := false
    pending := if s.pending = [] then [] else .cycle :: s.pending }

end Sys2Proof.Machine
end

