-- ==== Sys2Proof/Machine/Step.lean ====
section
/-! DEFINITION. One step of the machine: one action of one agent. -/

namespace Sys2Proof.Machine

/-- A halted machine takes no step (spec/10_state.md R32, 60_exceptions.md R302); a machine that was quit takes none
(R323); else the next action is taken. Log entries 6, 9, 10. -/
def step (s : State) : Host.Outcome State Fault Refusal :=
  if s.halted then .fault (.halted s.fault)
  else if s.ended then .refused .runEnded
  else s.popEvent.act s.nextEvent

/-- `s` with the table word placed where the next step fetches it (log entry 5): the word at `PC`, the machine running,
and an engine cycle next. In `State.reset` only memory changes. -/
def State.withFetchWord (s : State) (nbits w : Nat) : State := (s.placeWord (tableWord nbits w)).readyToCycle

end Sys2Proof.Machine
end

