-- ==== Sys2Proof/Machine/Init.lean ====
section
/-! DEFINITION. Initialisation (spec/70_reset_and_hazards.md R340 to R343): the `init(font, image)` port. -/

namespace Sys2Proof.Machine

/-- The state R342 produces from a font of 80 bytes and an image that fits: the reset state with the font copied to
0x050 and the image to 0x200. -/
def State.loaded (font : Vector Byte 80) (image : List Byte) : State :=
  { State.reset with
    mem := (Memory.writeBlock [] Config.fontBase font.toList).writeBlock Config.loadAddr image }

/-- `init(font, image)`: fails with `ImageTooLarge(len)` and creates no machine when the image is longer than 3584 bytes
(R341). -/
def init (font : Vector Byte 80) (image : List Byte) : Result :=
  if Config.maxImage < image.length then .refused (.imageTooLarge image.length)
  else .next (State.loaded font image)

end Sys2Proof.Machine
end

