-- ==== Sys2Proof/Safety.lean ====
section
/-! DEFINITION. The terms claims are stated in: when a machine runs, what a fault entry is, the invariants, and what a
sprite covers. -/

namespace Sys2Proof.Machine

/-- Agents may step: neither halted (spec/10_state.md R32) nor quit (60_exceptions.md R323). -/
def State.Running (s : State) : Prop := s.halted = false ∧ s.ended = false

/-- The next step is an engine cycle: the machine runs and a cycle is the next action. -/
def State.CycleNext (s : State) : Prop := s.Running ∧ s.nextEvent = .cycle

/-- Two bytes can be fetched at `PC` (40_cycle.md R111). -/
def State.Fetchable (s : State) : Prop := s.pc.toNat + 1 < Config.memSize

/-- `t` is `s` after a fault raised in execution, and differs from it in `HALTED` and `FAULT` alone (R302 to R304). -/
def FaultEntry (s t : State) (code : FaultCode) (info : Option Nat) : Prop :=
  t = { s with
    halted := true
    fault := some { code := code, pc := s.pc - 2, opcode := some s.opcode, info := info } }

/-- `HALTED` and `FAULT` go together (R32, R302): a record exists exactly while the machine is halted. -/
def State.HaltRecorded (s : State) : Prop := s.halted = s.fault.isSome

/-- The bound of 40_cycle.md R116, and of the stack entries it rests on: `PC` stays in 0x0000..0x10FE and a pushed value
is at most 0x1000. -/
def State.PcBounded (s : State) : Prop :=
  s.pc.toNat ≤ 0x10FE ∧ ∀ j : Fin 16, j.val < s.sp.val → (s.stack[j.val]).toNat ≤ 0x1000

/-- The state the engine owns alone (20_memory.md R59) is the same. -/
def EnginePrivateSame (s t : State) : Prop :=
  t.v = s.v ∧ t.i = s.i ∧ t.pc = s.pc ∧ t.sp = s.sp ∧ t.stack = s.stack ∧ t.opcode = s.opcode ∧ t.mem = s.mem ∧
    t.halted = s.halted ∧ t.fault = s.fault ∧ t.draws = s.draws

/-- Every register but `x` is the same. -/
def RegsSameBut (x : RegId) (s t : State) : Prop := ∀ r : RegId, r ≠ x → t.reg r = s.reg r

/-- Every memory byte outside `base`, ..., `base + count - 1` reads the same. -/
def MemSameOutside (base count : Nat) (s t : State) : Prop :=
  ∀ a, a < base ∨ base + count ≤ a → t.mem.read a = s.mem.read a

/-- The sprite pixel that an unclipped draw of `n` bytes from `base` at column `cx`, row `cy` puts on screen pixel
`(c, r)`: bit `7 - (c - cx)` of byte `r - cy` (44_display.md R233). -/
def spritePixel (m : Memory) (base n cx cy r c : Nat) : Bool :=
  decide (cy ≤ r) && decide (r < cy + n) && decide (cx ≤ c) && decide (c < cx + 8) &&
    (m.read (base + (r - cy))).getLsbD (7 - (c - cx))

/-- The screen pixel `(c, r)` under the sprite that `DRW Vx, Vy, n` draws in `s` (R232). -/
def State.drawnPixel (s : State) (x y : RegId) (n r c : Nat) : Bool :=
  spritePixel s.mem s.i.toNat n ((s.reg x).toNat % 64) ((s.reg y).toNat % 32) r c

/-- How many tone events are among the outputs. -/
def tones (out : List Output) : Nat := out.countP (· == .tone)

/-- The outcome `o` from `s` completes, writes the byte `b` to register `x`, and changes nothing else. -/
def WritesReg (o : Result) (s : State) (x : RegId) (b : Byte) : Prop :=
  ∃ t, o = .next t ∧ t.reg x = b ∧ RegsSameBut x s t ∧ t = { s with v := t.v }

/-- The outcome `o` from `s` completes, writes the result `b` to register `x` and then the flag `f` to VF as 0 or 1, and
changes nothing else (42_register_alu.md R173: with `x = 15`, VF ends holding the flag). -/
def WritesResultAndFlag (o : Result) (s : State) (x : RegId) (b : Byte) (f : Prop) : Prop :=
  ∃ t, o = .next t ∧ (f ∧ t.reg 15 = 1 ∨ ¬f ∧ t.reg 15 = 0) ∧ (x ≠ 15 → t.reg x = b) ∧
    (∀ r : RegId, r ≠ x → r ≠ 15 → t.reg r = s.reg r) ∧ t = { s with v := t.v }

/-- The outcome `o` is the fault `code` taken in `s`, with nothing else written. -/
def TakesFault (o : Result) (s : State) (code : FaultCode) (info : Option Nat) : Prop :=
  ∃ t, o = .next t ∧ FaultEntry s t code info

/-- The general registers an instruction may write (10_state.md R22, R36). -/
def mayWriteReg : Instr → RegId → Prop
  | .ldImm x _, r | .addImm x _, r | .ldReg x _, r | .orReg x _, r | .andReg x _, r | .xorReg x _, r | .rnd x _, r
  | .ldVxDt x, r | .ldVxK x, r => r = x
  | .addReg x _, r | .sub x _, r | .shr x _, r | .subn x _, r | .shl x _, r => r = x ∨ r = 15
  | .drw _ _ _, r => r = 15
  | .ldVxMem x, r => r.toNat ≤ x.toNat
  | .cls, _ | .ret, _ | .jp _, _ | .call _, _ | .seImm _ _, _ | .sneImm _ _, _ | .seReg _ _, _ | .sneReg _ _, _
  | .ldI _, _ | .jpV0 _, _ | .skp _, _ | .sknp _, _ | .ldDtVx _, _ | .ldStVx _, _ | .addIVx _, _ | .ldFVx _, _
  | .ldBVx _, _ | .ldMemVx _, _ => False

/-- The fault a memory block of `count` bytes from `I` raises (R53, R305). -/
def State.blockFault (s : State) (count : Nat) : Option (FaultCode × Option Nat) :=
  if count ≠ 0 ∧ 4096 < s.i.toNat + count then some (.memoryOutOfRange, some (max s.i.toNat 4096)) else none

/-- The fault a key skip raises (R266). -/
def State.keyFault (s : State) (x : RegId) : Option (FaultCode × Option Nat) :=
  if 16 ≤ (s.reg x).toNat then some (.keyIndexOutOfRange, some (s.reg x).toNat) else none

/-- The fault an instruction raises in a state, by the table of 60_exceptions.md R301. -/
def faultOf (s : State) : Instr → Option (FaultCode × Option Nat)
  | .call _ => if s.sp.val = 16 then some (.stackOverflow, none) else none
  | .ret => if s.sp.val = 0 then some (.stackUnderflow, none) else none
  | .drw _ _ n => s.blockFault n
  | .ldBVx _ => s.blockFault 3
  | .ldMemVx x | .ldVxMem x => s.blockFault (x.toNat + 1)
  | .skp x | .sknp x => s.keyFault x
  | .cls | .jp _ | .seImm _ _ | .sneImm _ _ | .seReg _ _ | .ldImm _ _ | .addImm _ _ | .ldReg _ _ | .orReg _ _
  | .andReg _ _ | .xorReg _ _ | .addReg _ _ | .sub _ _ | .shr _ _ | .subn _ _ | .shl _ _ | .sneReg _ _ | .ldI _
  | .jpV0 _ | .rnd _ _ | .ldVxDt _ | .ldVxK _ | .ldDtVx _ | .ldStVx _ | .addIVx _ | .ldFVx _ => none

end Sys2Proof.Machine
end

