-- ==== Sys2Proof/Certificates/Slice0/Obligations.lean ====
section
/-! DEFINITION. The statements for the provers, each from the numbered rules of spec/. -/

open Sys2Proof Sys2Proof.Machine

/-! ## The cycle and the step -/

/-- R112 to R114, R118: when the next action is a cycle and the two bytes at `PC` decode to `i`, the step is `exec i` with
`OPCODE` the word, `PC` advanced by 2 and the action taken; and `i` is well formed. -/
def Obligations.StepRunsTheDecodedInstruction : Prop :=
  ∀ (s : State) (op : Word) (i : Instr), s.CycleNext → s.Fetchable →
    op = wordOfBytes (s.mem.read s.pc.toNat) (s.mem.read (s.pc.toNat + 1)) →
    decodeWord Config.looseDecode op = some i →
    i.wellFormed = true ∧
      step s = exec i { s with pending := s.pending.tail, opcode := op, pc := s.pc + 2 }

/-- R306: an UNHANDLED word is reported with its fetch address, and nothing else happens but the advance. -/
def Obligations.UnhandledWordIsReportedAndSkipped : Prop :=
  ∀ (s : State) (op : Word), s.CycleNext → s.Fetchable →
    op = wordOfBytes (s.mem.read s.pc.toNat) (s.mem.read (s.pc.toNat + 1)) →
    decodeWord Config.looseDecode op = none →
    step s = .next { s with
      pending := s.pending.tail
      opcode := op
      pc := s.pc + 2
      output := .report s.pc op :: s.output }

/-- R111: a fetch fault names the first out-of-range address and has no other effect than the halt. -/
def Obligations.FetchFaultNamesTheFirstBadAddress : Prop :=
  ∀ s : State, s.CycleNext → ¬ s.Fetchable →
    step s = .next { s with
      pending := s.pending.tail
      halted := true
      fault := some {
        code := .memoryOutOfRange
        pc := s.pc
        opcode := none
        info := some (if 4096 ≤ s.pc.toNat then s.pc.toNat else 4096) } }

/-- R115: a halted machine takes no step (so nothing clears `HALTED`), and a step that sets it is a fatal fault raised by
this cycle: of the fetch at `PC`, or of the instruction fetched there. -/
def Obligations.OnlyAFatalFaultHalts : Prop :=
  (∀ s t : State, s.halted = true → step s ≠ .next t) ∧
    ∀ s t : State, step s = .next t → t.halted = true →
      s.nextEvent = .cycle ∧ ∃ r, t.fault = some r ∧ r.pc = s.pc ∧
        (r.code = .memoryOutOfRange ∧ r.opcode = none ∧ ¬ s.Fetchable ∨ r.opcode = some t.opcode ∧ s.Fetchable)

/-- R323: a quit ends the run with no fault, and no agent takes a further step. -/
def Obligations.QuitEndsTheRunWithoutFault : Prop :=
  ∀ s : State, s.Running → s.nextEvent = .quit →
    ∃ t, step s = .next t ∧ t = { s with pending := s.pending.tail, ended := true } ∧ t.halted = false ∧
      ∀ u, step t ≠ .next u

/-- R304: faults are precise. After a fault in execution only `PC` (advanced), `OPCODE`, `HALTED` and `FAULT` differ; after
a fetch fault only `HALTED` and `FAULT` do. (The pending action is the model's own field.) -/
def Obligations.FaultsArePrecise : Prop :=
  ∀ s t : State, step s = .next t → t.halted = true →
    (s.Fetchable ∧ t = { s with
        pending := s.pending.tail
        opcode := wordOfBytes (s.mem.read s.pc.toNat) (s.mem.read (s.pc.toNat + 1))
        pc := s.pc + 2
        halted := true
        fault := t.fault }) ∨
      (¬ s.Fetchable ∧ t = { s with pending := s.pending.tail, halted := true, fault := t.fault })

/-- R301, R305: which fault each instruction raises in each state, and that it raises no other. -/
def Obligations.EachInstructionFaultsExactlyAsTabled : Prop :=
  ∀ (i : Instr) (s t : State), exec i s = .next t →
    match faultOf s i with
    | some (code, info) => FaultEntry s t code info
    | none => t.halted = s.halted ∧ t.fault = s.fault

/-- Every instruction answers a next state in every state: none stops, refuses or is left out. That an instruction which
faults (a call with `SP = 16`, a block out of range) answers one too is the model's choice: R302 says what fault entry
writes, and log entry 10 (DESIGN CHOICE) makes it a next state. -/
def Obligations.EveryInstructionAnswersANextState : Prop :=
  ∀ (i : Instr) (s : State), ∃ t, exec i s = .next t

/-! ## Decode and encode -/

/-- Nine words written out from the encodings of R96, of groups 0, 2, 5, 7, 8, A, D, E and F, decode to the instructions
they stand for, under both settings; and `0x8008` is UNHANDLED (R89). -/
def Obligations.WrittenOutWordsDecode : Prop :=
  ∀ loose : Bool,
    decodeWord loose 0x00E0 = some .cls ∧ decodeWord loose 0x2345 = some (.call 0x345) ∧
    decodeWord loose 0x5120 = some (.seReg 1 2) ∧ decodeWord loose 0x71FF = some (.addImm 1 0xFF) ∧
    decodeWord loose 0x8AB7 = some (.subn 0xA 0xB) ∧ decodeWord loose 0xA123 = some (.ldI 0x123) ∧
    decodeWord loose 0xD015 = some (.drw 0 1 5) ∧ decodeWord loose 0xE5A1 = some (.sknp 5) ∧
    decodeWord loose 0xF365 = some (.ldVxMem 3) ∧ decodeWord loose 0x8008 = none

/-- Decoding the word, or the two bytes, of a well-formed instruction gives it back, under both settings. -/
def Obligations.DecodeInvertsEncode : Prop :=
  ∀ (loose : Bool) (i : Instr) (rest : List Byte), i.wellFormed = true →
    decodeWord loose (encode i) = some i ∧ decodeBytes loose (encodeBytes i ++ rest) = .ok (i, rest)

/-- Under strict decode each instruction has one word: what a word decodes to is well formed and encodes to that word. -/
def Obligations.StrictDecodeHasOneWordPerInstruction : Prop :=
  ∀ (op : Word) (i : Instr), decodeWord false op = some i → i.wellFormed = true ∧ encode i = op

/-- R87: loose decode differs from strict decode in exactly three arms. -/
def Obligations.LooseDecodeDiffersInThreeArms : Prop :=
  ∀ op : Word,
    (fieldG op = 0x0 → decodeWord true op =
      if fieldKK op = 0xE0 then some .cls else if fieldKK op = 0xEE then some .ret else none) ∧
    (fieldG op = 0x5 → decodeWord true op = some (.seReg (fieldX op) (fieldY op))) ∧
    (fieldG op = 0x9 → decodeWord true op = some (.sneReg (fieldX op) (fieldY op))) ∧
    (fieldG op ≠ 0x0 → fieldG op ≠ 0x5 → fieldG op ≠ 0x9 → decodeWord true op = decodeWord false op)

/-- R89: the words strict decode rejects, group by group. -/
def Obligations.StrictDecodeRejectsExactlyTheUnhandledWords : Prop :=
  ∀ op : Word, decodeWord false op = none ↔
    (fieldG op = 0x0 ∧ op ≠ 0x00E0 ∧ op ≠ 0x00EE) ∨
    (fieldG op = 0x5 ∧ fieldN op ≠ 0) ∨
    (fieldG op = 0x8 ∧ (fieldN op).toNat ∈ [0x8, 0x9, 0xA, 0xB, 0xC, 0xD, 0xF]) ∨
    (fieldG op = 0x9 ∧ fieldN op ≠ 0) ∨
    (fieldG op = 0xE ∧ (fieldKK op).toNat ∉ [0x9E, 0xA1]) ∨
    (fieldG op = 0xF ∧ (fieldKK op).toNat ∉ [0x07, 0x0A, 0x15, 0x18, 0x1E, 0x29, 0x33, 0x55, 0x65])

/-! ## Invariants -/

/-- Every step keeps memory in its canonical form, all of it below 4096 (R31, R53). -/
def Obligations.StepKeepsMemoryCanonical : Prop :=
  ∀ s t : State, s.mem.wf = true → step s = .next t → t.mem.wf = true

/-- R116: `PC` stays in 0x0000..0x10FE, with the occupied stack entries at most 0x1000. -/
def Obligations.StepKeepsPcBounded : Prop :=
  ∀ s t : State, s.PcBounded → step s = .next t → t.PcBounded

/-- R32, R302: a fault record exists exactly while the machine is halted. -/
def Obligations.StepKeepsHaltAndRecordTogether : Prop :=
  ∀ s t : State, s.HaltRecorded → step s = .next t → t.HaltRecorded

/-- The reset state meets the three invariants. The canonical form of memory is the model's own (log entry 12). -/
def Obligations.ResetMeetsTheInvariants : Prop :=
  State.reset.mem.wf = true ∧ State.reset.PcBounded ∧ State.reset.HaltRecorded

/-! ## Initialisation -/

/-- R34, R343: the reset state, with the default font and an empty image. The model's own fields are not mentioned. -/
def Obligations.ResetHoldsTheInitialValues : Prop :=
  let s := State.reset
  (∀ x : RegId, s.reg x = 0) ∧ s.i = 0 ∧ s.pc = 0x200 ∧ s.sp.val = 0 ∧ (∀ j, j < 16 → s.stack[j]? = some 0) ∧
    s.opcode = 0 ∧ s.dt = 0 ∧ s.st = 0 ∧ (∀ r c, pixel s.fb r c = false) ∧ (∀ k, k < 16 → s.keys[k]? = some false) ∧
    s.halted = false ∧ s.fault = none ∧
    ∀ a, a < 4096 → s.mem.read a = if 0x050 ≤ a ∧ a < 0x0A0 then defaultFont.getD (a - 0x050) 0 else 0

/-- R34, R341, R342: `init(font, image)` for every font and every image: too large an image creates no machine; any other
gives the initial state, memory holding the font, the image and 0 elsewhere. That memory is in canonical form
(`s.mem.wf`) is the model's own clause (log entry 12, DESIGN CHOICE). -/
def Obligations.InitLoadsFontAndImage : Prop :=
  ∀ (font : Vector Byte 80) (image : List Byte),
    (3584 < image.length → init font image = .refused (.imageTooLarge image.length)) ∧
    (image.length ≤ 3584 → ∃ s, init font image = .next s ∧
      (∀ x : RegId, s.reg x = 0) ∧ s.i = 0 ∧ s.pc = 0x200 ∧ s.sp.val = 0 ∧ (∀ j, j < 16 → s.stack[j]? = some 0) ∧
      s.opcode = 0 ∧ s.dt = 0 ∧ s.st = 0 ∧ (∀ r c, pixel s.fb r c = false) ∧ (∀ k, k < 16 → s.keys[k]? = some false) ∧
      s.halted = false ∧ s.fault = none ∧ s.mem.wf = true ∧
      ∀ a, a < 4096 → s.mem.read a =
        if 0x050 ≤ a ∧ a < 0x0A0 then font.toList.getD (a - 0x050) 0
        else if 0x200 ≤ a ∧ a < 0x200 + image.length then image.getD (a - 0x200) 0
        else 0)

/-! ## Control flow -/

/-- R131, R137: the jumps set `PC`, zero-extended and not reduced to 12 bits, and change nothing else. -/
def Obligations.JumpsSetPc : Prop :=
  ∀ (nnn : Addr) (s : State),
    exec (.jp nnn) s = .next { s with pc := BitVec.ofNat 16 nnn.toNat } ∧
    exec (.jpV0 nnn) s = .next { s with pc := BitVec.ofNat 16 (nnn.toNat + (s.reg 0).toNat) }

/-- R132: a call pushes `PC` and jumps; with 16 entries occupied it takes `StackOverflow`. -/
def Obligations.CallPushesTheReturnAddress : Prop :=
  ∀ (nnn : Addr) (s : State),
    (s.sp.val < 16 → ∃ t, exec (.call nnn) s = .next t ∧ t.stack[s.sp.val]? = some s.pc ∧
      t.sp.val = s.sp.val + 1 ∧ t.pc = BitVec.ofNat 16 nnn.toNat ∧
      (∀ j, j ≠ s.sp.val → t.stack[j]? = s.stack[j]?) ∧ t = { s with stack := t.stack, sp := t.sp, pc := t.pc }) ∧
    (s.sp.val = 16 → TakesFault (exec (.call nnn) s) s .stackOverflow none)

/-- R130: a return pops the top entry into `PC`, and the entry keeps its value; with none occupied it takes
`StackUnderflow`. -/
def Obligations.ReturnPopsTheTopEntry : Prop :=
  ∀ s : State,
    (s.sp.val ≠ 0 → ∃ t, exec .ret s = .next t ∧ some t.pc = s.stack[s.sp.val - 1]? ∧ t.sp.val = s.sp.val - 1 ∧
      t = { s with sp := t.sp, pc := t.pc }) ∧
    (s.sp.val = 0 → TakesFault (exec .ret s) s .stackUnderflow none)

/-- R139: whatever the subroutine did besides, a return from a state with the stack the call left resumes at the
instruction after the call, with the stack as deep as before it. -/
def Obligations.ReturnResumesAfterTheCall : Prop :=
  ∀ (nnn : Addr) (s t u : State), exec (.call nnn) s = .next t → s.sp.val < 16 → u.stack = t.stack → u.sp = t.sp →
    ∃ w, exec .ret u = .next w ∧ w.pc = s.pc ∧ w.sp = s.sp ∧ ∀ j, j < s.sp.val → w.stack[j]? = s.stack[j]?

/-- R133, R134: the immediate skips. -/
def Obligations.ImmediateSkipsCompareWithTheByte : Prop :=
  ∀ (x : RegId) (kk : Byte) (s : State),
    exec (.seImm x kk) s = .next { s with pc := if s.reg x = kk then s.pc + 2 else s.pc } ∧
    exec (.sneImm x kk) s = .next { s with pc := if s.reg x ≠ kk then s.pc + 2 else s.pc }

/-- R135, R136: the register skips; with `x = y` the first always and the second never skips. -/
def Obligations.RegisterSkipsCompareTwoRegisters : Prop :=
  ∀ (x y : RegId) (s : State),
    exec (.seReg x y) s = .next { s with pc := if s.reg x = s.reg y then s.pc + 2 else s.pc } ∧
    exec (.sneReg x y) s = .next { s with pc := if s.reg x ≠ s.reg y then s.pc + 2 else s.pc }

/-! ## Register ALU -/

/-- R160, R162 to R165: loads, move and the logical forms write `V[x]` and nothing else; so VF keeps its value unless
`x = 15` (R175). -/
def Obligations.MovesAndLogicWriteOnlyTheirDestination : Prop :=
  ∀ (x y : RegId) (kk : Byte) (s : State),
    WritesReg (exec (.ldImm x kk) s) s x kk ∧
    WritesReg (exec (.ldReg x y) s) s x (s.reg y) ∧
    WritesReg (exec (.orReg x y) s) s x (s.reg x ||| s.reg y) ∧
    WritesReg (exec (.andReg x y) s) s x (s.reg x &&& s.reg y) ∧
    WritesReg (exec (.xorReg x y) s) s x (s.reg x ^^^ s.reg y)

/-- R161: add-immediate wraps modulo 256 and writes no flag. -/
def Obligations.AddImmediateWrapsWithNoFlag : Prop :=
  ∀ (x : RegId) (kk : Byte) (s : State),
    WritesReg (exec (.addImm x kk) s) s x (BitVec.ofNat 8 (((s.reg x).toNat + kk.toNat) % 256))

/-- R166: the sum modulo 256 and the carry, from the operand values before the instruction. -/
def Obligations.AddRegistersReportsCarry : Prop :=
  ∀ (x y : RegId) (s : State),
    WritesResultAndFlag (exec (.addReg x y) s) s x
      (BitVec.ofNat 8 (((s.reg x).toNat + (s.reg y).toNat) % 256)) (255 < (s.reg x).toNat + (s.reg y).toNat)

/-- R167, R169: the differences modulo 256; the flag says that no borrow was needed, equality among it. -/
def Obligations.SubtractsReportNoBorrow : Prop :=
  ∀ (x y : RegId) (s : State),
    WritesResultAndFlag (exec (.sub x y) s) s x
      (BitVec.ofInt 8 (((s.reg x).toNat : Int) - (s.reg y).toNat)) ((s.reg x).toNat ≥ (s.reg y).toNat) ∧
    WritesResultAndFlag (exec (.subn x y) s) s x
      (BitVec.ofInt 8 (((s.reg y).toNat : Int) - (s.reg x).toNat)) ((s.reg y).toNat ≥ (s.reg x).toNat)

/-- R168, R170: the shifts of `V[x]` by one; the flag is the bit shifted out; `y` has no effect. -/
def Obligations.ShiftsReportTheBitShiftedOut : Prop :=
  ∀ (x y : RegId) (s : State),
    WritesResultAndFlag (exec (.shr x y) s) s x (BitVec.ofNat 8 ((s.reg x).toNat / 2)) ((s.reg x).toNat % 2 = 1) ∧
    WritesResultAndFlag (exec (.shl x y) s) s x (BitVec.ofNat 8 ((s.reg x).toNat * 2 % 256)) (128 ≤ (s.reg x).toNat)

/-- R166, R167, R174: result and flag together are the exact integer result, when the flag does not overwrite it. -/
def Obligations.SumAndDifferenceAreExactWithTheirFlag : Prop :=
  ∀ (x y : RegId) (s t u : State), x ≠ 15 → exec (.addReg x y) s = .next t → exec (.sub x y) s = .next u →
    (t.reg x).toNat + 256 * (t.reg 15).toNat = (s.reg x).toNat + (s.reg y).toNat ∧
    (u.reg x).toNat + 256 * (u.reg 15).toNat + (s.reg y).toNat = (s.reg x).toNat + 256

/-- R21, R36, R173: after an instruction that writes VF as a flag and takes no fault, VF is 0 or 1, whatever its
destination. -/
def Obligations.VfIsZeroOrOneAfterAFlagInstruction : Prop :=
  ∀ (x y : RegId) (n : Nat) (i : Instr) (s t : State),
    i ∈ [Instr.addReg x y, .sub x y, .subn x y, .shr x y, .shl x y, .drw x y n] →
    exec i s = .next t → s.halted = false → t.halted = false → t.reg 15 = 0 ∨ t.reg 15 = 1

/-- R171: `V[x]` gets the next random byte masked by `kk`; a mask of 0 gives 0 whatever the draw; and the next draw is a
fresh one. `Config.rand8` is a free value and `draws` the model's own counter (log entry 3). -/
def Obligations.RandomWritesAMaskedFreshByte : Prop :=
  ∀ (x : RegId) (kk : Byte) (s : State), ∃ t, exec (.rnd x kk) s = .next t ∧
    t.reg x = Config.rand8 s.draws &&& kk ∧ (kk = 0 → t.reg x = 0) ∧ RegsSameBut x s t ∧
    t = { s with v := t.v, draws := s.draws + 1 }

/-! ## Index register and memory block -/

/-- R200 to R202: the three writers of `I`, modulo 2^16, with no flag and nothing else changed. -/
def Obligations.IndexRegisterWrites : Prop :=
  ∀ (nnn : Addr) (x : RegId) (s : State),
    exec (.ldI nnn) s = .next { s with i := BitVec.ofNat 16 nnn.toNat } ∧
    exec (.addIVx x) s = .next { s with i := BitVec.ofNat 16 ((s.i.toNat + (s.reg x).toNat) % 65536) } ∧
    exec (.ldFVx x) s = .next { s with i := BitVec.ofNat 16 (0x050 + 5 * (s.reg x).toNat) }

/-- R203: store-BCD writes the three decimal digits of `V[x]` at `I`, `I + 1`, `I + 2` and no other byte; out of range it
takes `MemoryOutOfRange` with the lowest bad address. -/
def Obligations.StoreBcdWritesThreeDigits : Prop :=
  ∀ (x : RegId) (s : State),
    (s.mem.wf = true → s.i.toNat + 2 < 4096 → ∃ t, exec (.ldBVx x) s = .next t ∧
      t.mem.read s.i.toNat = BitVec.ofNat 8 ((s.reg x).toNat / 100) ∧
      t.mem.read (s.i.toNat + 1) = BitVec.ofNat 8 ((s.reg x).toNat / 10 % 10) ∧
      t.mem.read (s.i.toNat + 2) = BitVec.ofNat 8 ((s.reg x).toNat % 10) ∧
      (t.mem.read s.i.toNat).toNat * 100 + (t.mem.read (s.i.toNat + 1)).toNat * 10 +
        (t.mem.read (s.i.toNat + 2)).toNat = (s.reg x).toNat ∧
      MemSameOutside s.i.toNat 3 s t ∧ t = { s with mem := t.mem }) ∧
    (4096 ≤ s.i.toNat + 2 →
      TakesFault (exec (.ldBVx x) s) s .memoryOutOfRange (some (if 4096 ≤ s.i.toNat then s.i.toNat else 4096)))

/-- R204: register-dump writes `V[0]` to `V[x]` from `I` on and no other byte, and leaves `I`; out of range it takes
`MemoryOutOfRange` with the lowest bad address. -/
def Obligations.RegisterDumpStoresTheRegisters : Prop :=
  ∀ (x : RegId) (s : State),
    (s.mem.wf = true → s.i.toNat + x.toNat < 4096 → ∃ t, exec (.ldMemVx x) s = .next t ∧
      (∀ r : RegId, r.toNat ≤ x.toNat → t.mem.read (s.i.toNat + r.toNat) = s.reg r) ∧
      MemSameOutside s.i.toNat (x.toNat + 1) s t ∧ t = { s with mem := t.mem }) ∧
    (4096 ≤ s.i.toNat + x.toNat →
      TakesFault (exec (.ldMemVx x) s) s .memoryOutOfRange (some (if 4096 ≤ s.i.toNat then s.i.toNat else 4096)))

/-- R205: register-load fills `V[0]` to `V[x]` from `I` on and no other register, and leaves `I`; out of range it takes
`MemoryOutOfRange` with the lowest bad address. -/
def Obligations.RegisterLoadFillsTheRegisters : Prop :=
  ∀ (x : RegId) (s : State),
    (s.i.toNat + x.toNat < 4096 → ∃ t, exec (.ldVxMem x) s = .next t ∧
      (∀ r : RegId, r.toNat ≤ x.toNat → t.reg r = s.mem.read (s.i.toNat + r.toNat)) ∧
      (∀ r : RegId, x.toNat < r.toNat → t.reg r = s.reg r) ∧ t = { s with v := t.v }) ∧
    (4096 ≤ s.i.toNat + x.toNat →
      TakesFault (exec (.ldVxMem x) s) s .memoryOutOfRange (some (if 4096 ≤ s.i.toNat then s.i.toNat else 4096)))

/-- R207: a load from the same index and count, in any later state with `I` and memory as the dump left them, restores the
registers dumped. -/
def Obligations.LoadAfterDumpRestoresTheRegisters : Prop :=
  ∀ (x : RegId) (s t u : State), s.mem.wf = true → s.i.toNat + x.toNat < 4096 → exec (.ldMemVx x) s = .next t →
    u.i = s.i → u.mem = t.mem →
    ∃ w, exec (.ldVxMem x) u = .next w ∧ ∀ r : RegId, r.toNat ≤ x.toNat →
      w.reg r = s.reg r ∧ w.mem.read (s.i.toNat + r.toNat) = s.reg r

/-- R65, R351: a dump over the bytes at `PC` changes what the very next fetch reads. -/
def Obligations.NextFetchSeesTheStoredBytes : Prop :=
  ∀ (x : RegId) (s t : State), s.mem.wf = true → 1 ≤ x.toNat → s.i = s.pc → s.i.toNat + x.toNat < 4096 →
    exec (.ldMemVx x) s = .next t → t.fetch = .ok (wordOfBytes (s.reg 0) (s.reg 1))

/-! ## Display -/

/-- R231: clear-screen turns every pixel off and changes nothing else. -/
def Obligations.ClearScreenTurnsEveryPixelOff : Prop :=
  ∀ s : State, ∃ t, exec .cls s = .next t ∧ (∀ r c, r < 32 → c < 64 → pixel t.fb r c = false) ∧
    t = { s with fb := t.fb }

/-- R232, R233, R235: every screen pixel becomes its exclusive or with the clipped sprite; VF is 1 exactly when a sprite
pixel met a set screen pixel; nothing else changes. Out of range it takes `MemoryOutOfRange` with the lowest bad
address. -/
def Obligations.DrawSpriteXorsPixelsAndFlagsCollision : Prop :=
  ∀ (x y : RegId) (n : Nat) (s : State),
    (n = 0 ∨ s.i.toNat + n ≤ 4096 → ∃ t, exec (.drw x y n) s = .next t ∧
      (∀ r c, r < 32 → c < 64 → pixel t.fb r c = (pixel s.fb r c ^^ s.drawnPixel x y n r c)) ∧
      ((t.reg 15 = 1 ∧ ∃ r c, r < 32 ∧ c < 64 ∧ s.drawnPixel x y n r c = true ∧ pixel s.fb r c = true) ∨
        (t.reg 15 = 0 ∧ ∀ r c, r < 32 → c < 64 → s.drawnPixel x y n r c = true → pixel s.fb r c = false)) ∧
      RegsSameBut 15 s t ∧ t = { s with v := t.v, fb := t.fb }) ∧
    (n ≠ 0 → 4096 < s.i.toNat + n →
      TakesFault (exec (.drw x y n) s) s .memoryOutOfRange (some (if 4096 ≤ s.i.toNat then s.i.toNat else 4096)))

/-- The premises of R234: `t` is `s` after a draw, and `u` is a later state with the same `I`, `V[x]`, `V[y]` and sprite
bytes and no other write to `FB`. -/
def DrawsAgain (x y : RegId) (n : Nat) (s t u : State) : Prop :=
  (n = 0 ∨ s.i.toNat + n ≤ 4096) ∧ exec (.drw x y n) s = .next t ∧ u.i = s.i ∧ u.reg x = s.reg x ∧ u.reg y = s.reg y ∧
    u.fb = t.fb ∧ ∀ k, k < n → u.mem.read (s.i.toNat + k) = s.mem.read (s.i.toNat + k)

/-- R232, and the first sentence of R234: a second identical draw restores the framebuffer. By R232 it collides exactly
when some unclipped sprite pixel of value 1 lies on a screen pixel that was OFF before the first draw (log entry 16). -/
def Obligations.DrawingTwiceRestoresTheFrameBuffer : Prop :=
  ∀ (x y : RegId) (n : Nat) (s t u : State), DrawsAgain x y n s t u →
    ∃ w, exec (.drw x y n) u = .next w ∧ w.fb = s.fb ∧
      (w.reg 15 = 1 ∧ (∃ r c, r < 32 ∧ c < 64 ∧ s.drawnPixel x y n r c = true ∧ pixel s.fb r c = false) ∨
        w.reg 15 = 0 ∧ ∀ r c, r < 32 → c < 64 → s.drawnPixel x y n r c = true → pixel s.fb r c = true)

/-- R234 as written, its second sentence among it: "The second sets VF = 1 if the sprite has at least one unclipped 1
pixel, else 0". EXPECTED TO FAIL: by R232 a sprite pixel over a screen pixel that was already on turns it off in the first
draw and on again, without a collision, in the second (log entry 16). -/
def Obligations.SecondDrawFlagsEverySpriteWithAPixel : Prop :=
  ∀ (x y : RegId) (n : Nat) (s t u : State), DrawsAgain x y n s t u →
    ∃ w, exec (.drw x y n) u = .next w ∧ w.fb = s.fb ∧
      (w.reg 15 = 1 ∧ (∃ r c, r < 32 ∧ c < 64 ∧ s.drawnPixel x y n r c = true) ∨
        w.reg 15 = 0 ∧ ∀ r c, r < 32 → c < 64 → s.drawnPixel x y n r c = false)

/-- R234 whole, where it agrees with R232: when the first of two identical draws reports no collision, the second restores
the framebuffer and sets VF exactly when the sprite has an unclipped pixel of value 1. (The worked example E3 of
95_test_vectors.md is such a pair; log entry 16.) -/
def Obligations.SecondDrawFlagsAPixelAfterADrawWithoutCollision : Prop :=
  ∀ (x y : RegId) (n : Nat) (s t u : State), DrawsAgain x y n s t u → t.reg 15 = 0 →
    ∃ w, exec (.drw x y n) u = .next w ∧ w.fb = s.fb ∧
      (w.reg 15 = 1 ∧ (∃ r c, r < 32 ∧ c < 64 ∧ s.drawnPixel x y n r c = true) ∨
        w.reg 15 = 0 ∧ ∀ r c, r < 32 → c < 64 → s.drawnPixel x y n r c = false)

/-! ## Input and timers -/

/-- R260, R261, R266: the key skips test slot `V[x]` in this cycle only; an index of 16 or more takes
`KeyIndexOutOfRange`. -/
def Obligations.KeySkipsTestTheSlot : Prop :=
  ∀ (x : RegId) (s : State),
    ((s.reg x).toNat < 16 →
      exec (.skp x) s =
        .next { s with pc := if s.keys[(s.reg x).toNat]? = some true then s.pc + 2 else s.pc } ∧
      exec (.sknp x) s =
        .next { s with pc := if s.keys[(s.reg x).toNat]? = some false then s.pc + 2 else s.pc }) ∧
    (16 ≤ (s.reg x).toNat →
      TakesFault (exec (.skp x) s) s .keyIndexOutOfRange (some (s.reg x).toNat) ∧
      TakesFault (exec (.sknp x) s) s .keyIndexOutOfRange (some (s.reg x).toNat))

/-- R263: wait-for-key stores the lowest pressed key, or goes back to its own address and does nothing else. -/
def Obligations.WaitForKeyTakesTheLowestPressedKey : Prop :=
  ∀ (x : RegId) (s : State),
    (∀ k, k < 16 → s.keys[k]? = some true → (∀ j, j < k → s.keys[j]? = some false) →
      WritesReg (exec (.ldVxK x) s) s x (BitVec.ofNat 8 k)) ∧
    ((∀ k, k < 16 → s.keys[k]? = some false) → exec (.ldVxK x) s = .next { s with pc := s.pc - 2 })

/-- R262, R264, R265: the timer instructions. -/
def Obligations.TimerInstructionsCopyOneByte : Prop :=
  ∀ (x : RegId) (s : State),
    WritesReg (exec (.ldVxDt x) s) s x s.dt ∧
    exec (.ldDtVx x) s = .next { s with dt := s.reg x } ∧
    exec (.ldStVx x) s = .next { s with st := s.reg x }

/-! ## The other agents -/

/-- R316, R317: a tick decrements each timer that is not 0, with a tone event for the sound timer. Both in one step is what
R318 derives and the model takes (log entry 7, DEDUCED). -/
def Obligations.TickDecrementsNonzeroTimers : Prop :=
  ∀ s : State, s.Running → s.nextEvent = .tick →
    step s = .next { s with
      pending := s.pending.tail
      dt := BitVec.ofNat 8 (s.dt.toNat - 1)
      st := BitVec.ofNat 8 (s.st.toNat - 1)
      output := if s.st = 0 then s.output else .tone :: s.output }

/-- R317: a sound timer of `v` gives exactly `v` tone events over the next ticks, if nothing writes it between. -/
def Obligations.SoundTimerGivesExactlyItsCountOfTones : Prop :=
  ∀ (n : Nat) (rest : List Event) (s : State), s.Running → s.pending = List.replicate n .tick ++ rest →
    s.st.toNat ≤ n → ∃ t, Sys2Proof.core.run n s = .next t ∧ t.st = 0 ∧
      tones t.output = tones s.output + s.st.toNat ∧ t.pending = rest

/-- R320: a key write sets one slot and changes nothing else. -/
def Obligations.KeyWriteSetsOneSlot : Prop :=
  ∀ (s : State) (k : Fin 16) (v : Bool), s.Running → s.nextEvent = .keyWrite k v →
    ∃ t, step s = .next t ∧ t.keys[k.val]? = some v ∧ (∀ j, j ≠ k.val → t.keys[j]? = s.keys[j]?) ∧
      t = { s with pending := s.pending.tail, keys := t.keys }

/-- R322: a frame read puts out the whole grid as it stands and writes nothing. -/
def Obligations.FrameReadPutsOutTheWholeGrid : Prop :=
  ∀ s : State, s.Running → s.nextEvent = .frameRead →
    step s = .next { s with pending := s.pending.tail, output := .picture s.fb :: s.output }

/-- R59: no action of another agent changes what the engine owns alone. -/
def Obligations.OtherAgentsLeaveTheEngineAlone : Prop :=
  ∀ s t : State, s.nextEvent ≠ .cycle → step s = .next t → EnginePrivateSame s t

/-! ## Whole-machine rules -/

/-- R321: only a key write changes a key slot. -/
def Obligations.OnlyKeyWritesChangeTheKeys : Prop :=
  ∀ s t : State, step s = .next t → (∀ k v, s.nextEvent ≠ .keyWrite k v) → t.keys = s.keys

/-- R22: which instructions write which general registers. -/
def Obligations.OnlyNamedInstructionsWriteGeneralRegisters : Prop :=
  ∀ (i : Instr) (s t : State), exec i s = .next t → ∀ r : RegId, ¬ mayWriteReg i r → t.reg r = s.reg r

/-- R23, R25, R26, R28, R29, R50, R113: which instructions write each other piece of state; none writes `K` (R321) or
`OPCODE`, which the fetch alone writes (R27, R112). The clauses on `draws`, `output`, `pending` and `ended` are about the
model's own fields (log entries 3, 8, 6, 9). -/
def Obligations.OnlyNamedInstructionsWriteOtherState : Prop :=
  ∀ (i : Instr) (s t : State), exec i s = .next t →
    ((∀ nnn x, i ≠ .ldI nnn ∧ i ≠ .addIVx x ∧ i ≠ .ldFVx x) → t.i = s.i) ∧
    ((∀ nnn, i ≠ .call nnn ∧ i ≠ .ret) → t.sp = s.sp ∧ t.stack = s.stack) ∧
    ((∀ x, i ≠ .ldBVx x ∧ i ≠ .ldMemVx x) → t.mem = s.mem) ∧
    ((∀ x, i ≠ .ldDtVx x) → t.dt = s.dt) ∧
    ((∀ x, i ≠ .ldStVx x) → t.st = s.st) ∧
    ((∀ x y n, i ≠ .cls ∧ i ≠ .drw x y n) → t.fb = s.fb) ∧
    ((∀ nnn x y kk, i ≠ .ret ∧ i ≠ .jp nnn ∧ i ≠ .call nnn ∧ i ≠ .seImm x kk ∧ i ≠ .sneImm x kk ∧ i ≠ .seReg x y ∧
      i ≠ .sneReg x y ∧ i ≠ .jpV0 nnn ∧ i ≠ .skp x ∧ i ≠ .sknp x ∧ i ≠ .ldVxK x) → t.pc = s.pc) ∧
    ((∀ x kk, i ≠ .rnd x kk) → t.draws = s.draws) ∧
    t.keys = s.keys ∧ t.opcode = s.opcode ∧ t.pending = s.pending ∧ t.output = s.output ∧ t.ended = s.ended

/-- R28, R319: the engine never reads `ST`: two runs of an instruction that differ only in `ST` end in states that differ
at most in `ST`, and not even there when the instruction sets it. -/
def Obligations.EngineNeverReadsTheSoundTimer : Prop :=
  ∀ (i : Instr) (s t : State) (b : Byte), exec i s = .next t →
    ∃ u, exec i { s with st := b } = .next u ∧ u = { t with st := u.st } ∧
      ((∃ x, i = .ldStVx x) → u.st = t.st) ∧ ((∀ x, i ≠ .ldStVx x) → t.st = s.st ∧ u.st = b)
end

