-- ==== Sys2Proof/Laws/State.lean ====
section
/-! SUPPORT. One lemma per field per update of the state, each true by rfl, so that no later proof unfolds an update. -/

namespace Sys2Proof.Machine

/-! ## `State.setReg` -/

section
variable (s : State) (x : RegId) (b : Byte)

@[simp] theorem State.setReg_i : (s.setReg x b).i = s.i := rfl
@[simp] theorem State.setReg_pc : (s.setReg x b).pc = s.pc := rfl
@[simp] theorem State.setReg_sp : (s.setReg x b).sp = s.sp := rfl
@[simp] theorem State.setReg_stack : (s.setReg x b).stack = s.stack := rfl
@[simp] theorem State.setReg_opcode : (s.setReg x b).opcode = s.opcode := rfl
@[simp] theorem State.setReg_mem : (s.setReg x b).mem = s.mem := rfl
@[simp] theorem State.setReg_dt : (s.setReg x b).dt = s.dt := rfl
@[simp] theorem State.setReg_st : (s.setReg x b).st = s.st := rfl
@[simp] theorem State.setReg_fb : (s.setReg x b).fb = s.fb := rfl
@[simp] theorem State.setReg_keys : (s.setReg x b).keys = s.keys := rfl
@[simp] theorem State.setReg_halted : (s.setReg x b).halted = s.halted := rfl
@[simp] theorem State.setReg_fault : (s.setReg x b).fault = s.fault := rfl
@[simp] theorem State.setReg_draws : (s.setReg x b).draws = s.draws := rfl
@[simp] theorem State.setReg_pending : (s.setReg x b).pending = s.pending := rfl
@[simp] theorem State.setReg_output : (s.setReg x b).output = s.output := rfl
@[simp] theorem State.setReg_ended : (s.setReg x b).ended = s.ended := rfl

end

/-! ## `State.setResultFlag` -/

section
variable (s : State) (x : RegId) (r : Byte) (f : Bool)

@[simp] theorem State.setResultFlag_i : (s.setResultFlag x r f).i = s.i := rfl
@[simp] theorem State.setResultFlag_pc : (s.setResultFlag x r f).pc = s.pc := rfl
@[simp] theorem State.setResultFlag_sp : (s.setResultFlag x r f).sp = s.sp := rfl
@[simp] theorem State.setResultFlag_stack : (s.setResultFlag x r f).stack = s.stack := rfl
@[simp] theorem State.setResultFlag_opcode : (s.setResultFlag x r f).opcode = s.opcode := rfl
@[simp] theorem State.setResultFlag_mem : (s.setResultFlag x r f).mem = s.mem := rfl
@[simp] theorem State.setResultFlag_dt : (s.setResultFlag x r f).dt = s.dt := rfl
@[simp] theorem State.setResultFlag_st : (s.setResultFlag x r f).st = s.st := rfl
@[simp] theorem State.setResultFlag_fb : (s.setResultFlag x r f).fb = s.fb := rfl
@[simp] theorem State.setResultFlag_keys : (s.setResultFlag x r f).keys = s.keys := rfl
@[simp] theorem State.setResultFlag_halted : (s.setResultFlag x r f).halted = s.halted := rfl
@[simp] theorem State.setResultFlag_fault : (s.setResultFlag x r f).fault = s.fault := rfl
@[simp] theorem State.setResultFlag_draws : (s.setResultFlag x r f).draws = s.draws := rfl
@[simp] theorem State.setResultFlag_pending : (s.setResultFlag x r f).pending = s.pending := rfl
@[simp] theorem State.setResultFlag_output : (s.setResultFlag x r f).output = s.output := rfl
@[simp] theorem State.setResultFlag_ended : (s.setResultFlag x r f).ended = s.ended := rfl

end

/-! ## `State.setIndex` -/

section
variable (s : State) (w : Word)

@[simp] theorem State.setIndex_v : (s.setIndex w).v = s.v := rfl
@[simp] theorem State.setIndex_i : (s.setIndex w).i = w := rfl
@[simp] theorem State.setIndex_pc : (s.setIndex w).pc = s.pc := rfl
@[simp] theorem State.setIndex_sp : (s.setIndex w).sp = s.sp := rfl
@[simp] theorem State.setIndex_stack : (s.setIndex w).stack = s.stack := rfl
@[simp] theorem State.setIndex_opcode : (s.setIndex w).opcode = s.opcode := rfl
@[simp] theorem State.setIndex_mem : (s.setIndex w).mem = s.mem := rfl
@[simp] theorem State.setIndex_dt : (s.setIndex w).dt = s.dt := rfl
@[simp] theorem State.setIndex_st : (s.setIndex w).st = s.st := rfl
@[simp] theorem State.setIndex_fb : (s.setIndex w).fb = s.fb := rfl
@[simp] theorem State.setIndex_keys : (s.setIndex w).keys = s.keys := rfl
@[simp] theorem State.setIndex_halted : (s.setIndex w).halted = s.halted := rfl
@[simp] theorem State.setIndex_fault : (s.setIndex w).fault = s.fault := rfl
@[simp] theorem State.setIndex_draws : (s.setIndex w).draws = s.draws := rfl
@[simp] theorem State.setIndex_pending : (s.setIndex w).pending = s.pending := rfl
@[simp] theorem State.setIndex_output : (s.setIndex w).output = s.output := rfl
@[simp] theorem State.setIndex_ended : (s.setIndex w).ended = s.ended := rfl

end

/-! ## `State.setPc` -/

section
variable (s : State) (w : Word)

@[simp] theorem State.setPc_v : (s.setPc w).v = s.v := rfl
@[simp] theorem State.setPc_i : (s.setPc w).i = s.i := rfl
@[simp] theorem State.setPc_pc : (s.setPc w).pc = w := rfl
@[simp] theorem State.setPc_sp : (s.setPc w).sp = s.sp := rfl
@[simp] theorem State.setPc_stack : (s.setPc w).stack = s.stack := rfl
@[simp] theorem State.setPc_opcode : (s.setPc w).opcode = s.opcode := rfl
@[simp] theorem State.setPc_mem : (s.setPc w).mem = s.mem := rfl
@[simp] theorem State.setPc_dt : (s.setPc w).dt = s.dt := rfl
@[simp] theorem State.setPc_st : (s.setPc w).st = s.st := rfl
@[simp] theorem State.setPc_fb : (s.setPc w).fb = s.fb := rfl
@[simp] theorem State.setPc_keys : (s.setPc w).keys = s.keys := rfl
@[simp] theorem State.setPc_halted : (s.setPc w).halted = s.halted := rfl
@[simp] theorem State.setPc_fault : (s.setPc w).fault = s.fault := rfl
@[simp] theorem State.setPc_draws : (s.setPc w).draws = s.draws := rfl
@[simp] theorem State.setPc_pending : (s.setPc w).pending = s.pending := rfl
@[simp] theorem State.setPc_output : (s.setPc w).output = s.output := rfl
@[simp] theorem State.setPc_ended : (s.setPc w).ended = s.ended := rfl

end

/-! ## `State.rewind` -/

section
variable (s : State)

@[simp] theorem State.rewind_v : (s.rewind).v = s.v := rfl
@[simp] theorem State.rewind_i : (s.rewind).i = s.i := rfl
@[simp] theorem State.rewind_pc : (s.rewind).pc = s.pc - 2 := rfl
@[simp] theorem State.rewind_sp : (s.rewind).sp = s.sp := rfl
@[simp] theorem State.rewind_stack : (s.rewind).stack = s.stack := rfl
@[simp] theorem State.rewind_opcode : (s.rewind).opcode = s.opcode := rfl
@[simp] theorem State.rewind_mem : (s.rewind).mem = s.mem := rfl
@[simp] theorem State.rewind_dt : (s.rewind).dt = s.dt := rfl
@[simp] theorem State.rewind_st : (s.rewind).st = s.st := rfl
@[simp] theorem State.rewind_fb : (s.rewind).fb = s.fb := rfl
@[simp] theorem State.rewind_keys : (s.rewind).keys = s.keys := rfl
@[simp] theorem State.rewind_halted : (s.rewind).halted = s.halted := rfl
@[simp] theorem State.rewind_fault : (s.rewind).fault = s.fault := rfl
@[simp] theorem State.rewind_draws : (s.rewind).draws = s.draws := rfl
@[simp] theorem State.rewind_pending : (s.rewind).pending = s.pending := rfl
@[simp] theorem State.rewind_output : (s.rewind).output = s.output := rfl
@[simp] theorem State.rewind_ended : (s.rewind).ended = s.ended := rfl

end

/-! ## `State.storeAtIndex` -/

section
variable (s : State) (bytes : List Byte)

@[simp] theorem State.storeAtIndex_v : (s.storeAtIndex bytes).v = s.v := rfl
@[simp] theorem State.storeAtIndex_i : (s.storeAtIndex bytes).i = s.i := rfl
@[simp] theorem State.storeAtIndex_pc : (s.storeAtIndex bytes).pc = s.pc := rfl
@[simp] theorem State.storeAtIndex_sp : (s.storeAtIndex bytes).sp = s.sp := rfl
@[simp] theorem State.storeAtIndex_stack : (s.storeAtIndex bytes).stack = s.stack := rfl
@[simp] theorem State.storeAtIndex_opcode : (s.storeAtIndex bytes).opcode = s.opcode := rfl
@[simp] theorem State.storeAtIndex_mem : (s.storeAtIndex bytes).mem = s.mem.writeBlock s.i.toNat bytes := rfl
@[simp] theorem State.storeAtIndex_dt : (s.storeAtIndex bytes).dt = s.dt := rfl
@[simp] theorem State.storeAtIndex_st : (s.storeAtIndex bytes).st = s.st := rfl
@[simp] theorem State.storeAtIndex_fb : (s.storeAtIndex bytes).fb = s.fb := rfl
@[simp] theorem State.storeAtIndex_keys : (s.storeAtIndex bytes).keys = s.keys := rfl
@[simp] theorem State.storeAtIndex_halted : (s.storeAtIndex bytes).halted = s.halted := rfl
@[simp] theorem State.storeAtIndex_fault : (s.storeAtIndex bytes).fault = s.fault := rfl
@[simp] theorem State.storeAtIndex_draws : (s.storeAtIndex bytes).draws = s.draws := rfl
@[simp] theorem State.storeAtIndex_pending : (s.storeAtIndex bytes).pending = s.pending := rfl
@[simp] theorem State.storeAtIndex_output : (s.storeAtIndex bytes).output = s.output := rfl
@[simp] theorem State.storeAtIndex_ended : (s.storeAtIndex bytes).ended = s.ended := rfl

end

/-! ## `State.loadRegs` -/

section
variable (s : State) (x : RegId)

@[simp] theorem State.loadRegs_i : (s.loadRegs x).i = s.i := rfl
@[simp] theorem State.loadRegs_pc : (s.loadRegs x).pc = s.pc := rfl
@[simp] theorem State.loadRegs_sp : (s.loadRegs x).sp = s.sp := rfl
@[simp] theorem State.loadRegs_stack : (s.loadRegs x).stack = s.stack := rfl
@[simp] theorem State.loadRegs_opcode : (s.loadRegs x).opcode = s.opcode := rfl
@[simp] theorem State.loadRegs_mem : (s.loadRegs x).mem = s.mem := rfl
@[simp] theorem State.loadRegs_dt : (s.loadRegs x).dt = s.dt := rfl
@[simp] theorem State.loadRegs_st : (s.loadRegs x).st = s.st := rfl
@[simp] theorem State.loadRegs_fb : (s.loadRegs x).fb = s.fb := rfl
@[simp] theorem State.loadRegs_keys : (s.loadRegs x).keys = s.keys := rfl
@[simp] theorem State.loadRegs_halted : (s.loadRegs x).halted = s.halted := rfl
@[simp] theorem State.loadRegs_fault : (s.loadRegs x).fault = s.fault := rfl
@[simp] theorem State.loadRegs_draws : (s.loadRegs x).draws = s.draws := rfl
@[simp] theorem State.loadRegs_pending : (s.loadRegs x).pending = s.pending := rfl
@[simp] theorem State.loadRegs_output : (s.loadRegs x).output = s.output := rfl
@[simp] theorem State.loadRegs_ended : (s.loadRegs x).ended = s.ended := rfl

end

/-! ## `State.setDt` -/

section
variable (s : State) (b : Byte)

@[simp] theorem State.setDt_v : (s.setDt b).v = s.v := rfl
@[simp] theorem State.setDt_i : (s.setDt b).i = s.i := rfl
@[simp] theorem State.setDt_pc : (s.setDt b).pc = s.pc := rfl
@[simp] theorem State.setDt_sp : (s.setDt b).sp = s.sp := rfl
@[simp] theorem State.setDt_stack : (s.setDt b).stack = s.stack := rfl
@[simp] theorem State.setDt_opcode : (s.setDt b).opcode = s.opcode := rfl
@[simp] theorem State.setDt_mem : (s.setDt b).mem = s.mem := rfl
@[simp] theorem State.setDt_dt : (s.setDt b).dt = b := rfl
@[simp] theorem State.setDt_st : (s.setDt b).st = s.st := rfl
@[simp] theorem State.setDt_fb : (s.setDt b).fb = s.fb := rfl
@[simp] theorem State.setDt_keys : (s.setDt b).keys = s.keys := rfl
@[simp] theorem State.setDt_halted : (s.setDt b).halted = s.halted := rfl
@[simp] theorem State.setDt_fault : (s.setDt b).fault = s.fault := rfl
@[simp] theorem State.setDt_draws : (s.setDt b).draws = s.draws := rfl
@[simp] theorem State.setDt_pending : (s.setDt b).pending = s.pending := rfl
@[simp] theorem State.setDt_output : (s.setDt b).output = s.output := rfl
@[simp] theorem State.setDt_ended : (s.setDt b).ended = s.ended := rfl

end

/-! ## `State.setSt` -/

section
variable (s : State) (b : Byte)

@[simp] theorem State.setSt_v : (s.setSt b).v = s.v := rfl
@[simp] theorem State.setSt_i : (s.setSt b).i = s.i := rfl
@[simp] theorem State.setSt_pc : (s.setSt b).pc = s.pc := rfl
@[simp] theorem State.setSt_sp : (s.setSt b).sp = s.sp := rfl
@[simp] theorem State.setSt_stack : (s.setSt b).stack = s.stack := rfl
@[simp] theorem State.setSt_opcode : (s.setSt b).opcode = s.opcode := rfl
@[simp] theorem State.setSt_mem : (s.setSt b).mem = s.mem := rfl
@[simp] theorem State.setSt_dt : (s.setSt b).dt = s.dt := rfl
@[simp] theorem State.setSt_st : (s.setSt b).st = b := rfl
@[simp] theorem State.setSt_fb : (s.setSt b).fb = s.fb := rfl
@[simp] theorem State.setSt_keys : (s.setSt b).keys = s.keys := rfl
@[simp] theorem State.setSt_halted : (s.setSt b).halted = s.halted := rfl
@[simp] theorem State.setSt_fault : (s.setSt b).fault = s.fault := rfl
@[simp] theorem State.setSt_draws : (s.setSt b).draws = s.draws := rfl
@[simp] theorem State.setSt_pending : (s.setSt b).pending = s.pending := rfl
@[simp] theorem State.setSt_output : (s.setSt b).output = s.output := rfl
@[simp] theorem State.setSt_ended : (s.setSt b).ended = s.ended := rfl

end

/-! ## `State.setFb` -/

section
variable (s : State) (g : FrameBuffer)

@[simp] theorem State.setFb_v : (s.setFb g).v = s.v := rfl
@[simp] theorem State.setFb_i : (s.setFb g).i = s.i := rfl
@[simp] theorem State.setFb_pc : (s.setFb g).pc = s.pc := rfl
@[simp] theorem State.setFb_sp : (s.setFb g).sp = s.sp := rfl
@[simp] theorem State.setFb_stack : (s.setFb g).stack = s.stack := rfl
@[simp] theorem State.setFb_opcode : (s.setFb g).opcode = s.opcode := rfl
@[simp] theorem State.setFb_mem : (s.setFb g).mem = s.mem := rfl
@[simp] theorem State.setFb_dt : (s.setFb g).dt = s.dt := rfl
@[simp] theorem State.setFb_st : (s.setFb g).st = s.st := rfl
@[simp] theorem State.setFb_fb : (s.setFb g).fb = g := rfl
@[simp] theorem State.setFb_keys : (s.setFb g).keys = s.keys := rfl
@[simp] theorem State.setFb_halted : (s.setFb g).halted = s.halted := rfl
@[simp] theorem State.setFb_fault : (s.setFb g).fault = s.fault := rfl
@[simp] theorem State.setFb_draws : (s.setFb g).draws = s.draws := rfl
@[simp] theorem State.setFb_pending : (s.setFb g).pending = s.pending := rfl
@[simp] theorem State.setFb_output : (s.setFb g).output = s.output := rfl
@[simp] theorem State.setFb_ended : (s.setFb g).ended = s.ended := rfl

end

/-! ## `State.emit` -/

section
variable (s : State) (o : Output)

@[simp] theorem State.emit_v : (s.emit o).v = s.v := rfl
@[simp] theorem State.emit_i : (s.emit o).i = s.i := rfl
@[simp] theorem State.emit_pc : (s.emit o).pc = s.pc := rfl
@[simp] theorem State.emit_sp : (s.emit o).sp = s.sp := rfl
@[simp] theorem State.emit_stack : (s.emit o).stack = s.stack := rfl
@[simp] theorem State.emit_opcode : (s.emit o).opcode = s.opcode := rfl
@[simp] theorem State.emit_mem : (s.emit o).mem = s.mem := rfl
@[simp] theorem State.emit_dt : (s.emit o).dt = s.dt := rfl
@[simp] theorem State.emit_st : (s.emit o).st = s.st := rfl
@[simp] theorem State.emit_fb : (s.emit o).fb = s.fb := rfl
@[simp] theorem State.emit_keys : (s.emit o).keys = s.keys := rfl
@[simp] theorem State.emit_halted : (s.emit o).halted = s.halted := rfl
@[simp] theorem State.emit_fault : (s.emit o).fault = s.fault := rfl
@[simp] theorem State.emit_draws : (s.emit o).draws = s.draws := rfl
@[simp] theorem State.emit_pending : (s.emit o).pending = s.pending := rfl
@[simp] theorem State.emit_output : (s.emit o).output = o :: s.output := rfl
@[simp] theorem State.emit_ended : (s.emit o).ended = s.ended := rfl

end

/-! ## `State.drawn` -/

section
variable (s : State)

@[simp] theorem State.drawn_v : (s.drawn).v = s.v := rfl
@[simp] theorem State.drawn_i : (s.drawn).i = s.i := rfl
@[simp] theorem State.drawn_pc : (s.drawn).pc = s.pc := rfl
@[simp] theorem State.drawn_sp : (s.drawn).sp = s.sp := rfl
@[simp] theorem State.drawn_stack : (s.drawn).stack = s.stack := rfl
@[simp] theorem State.drawn_opcode : (s.drawn).opcode = s.opcode := rfl
@[simp] theorem State.drawn_mem : (s.drawn).mem = s.mem := rfl
@[simp] theorem State.drawn_dt : (s.drawn).dt = s.dt := rfl
@[simp] theorem State.drawn_st : (s.drawn).st = s.st := rfl
@[simp] theorem State.drawn_fb : (s.drawn).fb = s.fb := rfl
@[simp] theorem State.drawn_keys : (s.drawn).keys = s.keys := rfl
@[simp] theorem State.drawn_halted : (s.drawn).halted = s.halted := rfl
@[simp] theorem State.drawn_fault : (s.drawn).fault = s.fault := rfl
@[simp] theorem State.drawn_draws : (s.drawn).draws = s.draws + 1 := rfl
@[simp] theorem State.drawn_pending : (s.drawn).pending = s.pending := rfl
@[simp] theorem State.drawn_output : (s.drawn).output = s.output := rfl
@[simp] theorem State.drawn_ended : (s.drawn).ended = s.ended := rfl

end

/-! ## `State.halt` -/

section
variable (s : State) (r : FaultRecord)

@[simp] theorem State.halt_v : (s.halt r).v = s.v := rfl
@[simp] theorem State.halt_i : (s.halt r).i = s.i := rfl
@[simp] theorem State.halt_pc : (s.halt r).pc = s.pc := rfl
@[simp] theorem State.halt_sp : (s.halt r).sp = s.sp := rfl
@[simp] theorem State.halt_stack : (s.halt r).stack = s.stack := rfl
@[simp] theorem State.halt_opcode : (s.halt r).opcode = s.opcode := rfl
@[simp] theorem State.halt_mem : (s.halt r).mem = s.mem := rfl
@[simp] theorem State.halt_dt : (s.halt r).dt = s.dt := rfl
@[simp] theorem State.halt_st : (s.halt r).st = s.st := rfl
@[simp] theorem State.halt_fb : (s.halt r).fb = s.fb := rfl
@[simp] theorem State.halt_keys : (s.halt r).keys = s.keys := rfl
@[simp] theorem State.halt_halted : (s.halt r).halted = true := rfl
@[simp] theorem State.halt_fault : (s.halt r).fault = some r := rfl
@[simp] theorem State.halt_draws : (s.halt r).draws = s.draws := rfl
@[simp] theorem State.halt_pending : (s.halt r).pending = s.pending := rfl
@[simp] theorem State.halt_output : (s.halt r).output = s.output := rfl
@[simp] theorem State.halt_ended : (s.halt r).ended = s.ended := rfl

end

/-! ## `State.advance` -/

section
variable (s : State) (op : Word)

@[simp] theorem State.advance_v : (s.advance op).v = s.v := rfl
@[simp] theorem State.advance_i : (s.advance op).i = s.i := rfl
@[simp] theorem State.advance_pc : (s.advance op).pc = s.pc + 2 := rfl
@[simp] theorem State.advance_sp : (s.advance op).sp = s.sp := rfl
@[simp] theorem State.advance_stack : (s.advance op).stack = s.stack := rfl
@[simp] theorem State.advance_opcode : (s.advance op).opcode = op := rfl
@[simp] theorem State.advance_mem : (s.advance op).mem = s.mem := rfl
@[simp] theorem State.advance_dt : (s.advance op).dt = s.dt := rfl
@[simp] theorem State.advance_st : (s.advance op).st = s.st := rfl
@[simp] theorem State.advance_fb : (s.advance op).fb = s.fb := rfl
@[simp] theorem State.advance_keys : (s.advance op).keys = s.keys := rfl
@[simp] theorem State.advance_halted : (s.advance op).halted = s.halted := rfl
@[simp] theorem State.advance_fault : (s.advance op).fault = s.fault := rfl
@[simp] theorem State.advance_draws : (s.advance op).draws = s.draws := rfl
@[simp] theorem State.advance_pending : (s.advance op).pending = s.pending := rfl
@[simp] theorem State.advance_output : (s.advance op).output = s.output := rfl
@[simp] theorem State.advance_ended : (s.advance op).ended = s.ended := rfl

end

/-! ## `State.keyWrite` -/

section
variable (s : State) (k : Fin 16) (b : Bool)

@[simp] theorem State.keyWrite_v : (s.keyWrite k b).v = s.v := rfl
@[simp] theorem State.keyWrite_i : (s.keyWrite k b).i = s.i := rfl
@[simp] theorem State.keyWrite_pc : (s.keyWrite k b).pc = s.pc := rfl
@[simp] theorem State.keyWrite_sp : (s.keyWrite k b).sp = s.sp := rfl
@[simp] theorem State.keyWrite_stack : (s.keyWrite k b).stack = s.stack := rfl
@[simp] theorem State.keyWrite_opcode : (s.keyWrite k b).opcode = s.opcode := rfl
@[simp] theorem State.keyWrite_mem : (s.keyWrite k b).mem = s.mem := rfl
@[simp] theorem State.keyWrite_dt : (s.keyWrite k b).dt = s.dt := rfl
@[simp] theorem State.keyWrite_st : (s.keyWrite k b).st = s.st := rfl
@[simp] theorem State.keyWrite_fb : (s.keyWrite k b).fb = s.fb := rfl
@[simp] theorem State.keyWrite_halted : (s.keyWrite k b).halted = s.halted := rfl
@[simp] theorem State.keyWrite_fault : (s.keyWrite k b).fault = s.fault := rfl
@[simp] theorem State.keyWrite_draws : (s.keyWrite k b).draws = s.draws := rfl
@[simp] theorem State.keyWrite_pending : (s.keyWrite k b).pending = s.pending := rfl
@[simp] theorem State.keyWrite_output : (s.keyWrite k b).output = s.output := rfl
@[simp] theorem State.keyWrite_ended : (s.keyWrite k b).ended = s.ended := rfl

end

/-! ## `State.quit` -/

section
variable (s : State)

@[simp] theorem State.quit_v : (s.quit).v = s.v := rfl
@[simp] theorem State.quit_i : (s.quit).i = s.i := rfl
@[simp] theorem State.quit_pc : (s.quit).pc = s.pc := rfl
@[simp] theorem State.quit_sp : (s.quit).sp = s.sp := rfl
@[simp] theorem State.quit_stack : (s.quit).stack = s.stack := rfl
@[simp] theorem State.quit_opcode : (s.quit).opcode = s.opcode := rfl
@[simp] theorem State.quit_mem : (s.quit).mem = s.mem := rfl
@[simp] theorem State.quit_dt : (s.quit).dt = s.dt := rfl
@[simp] theorem State.quit_st : (s.quit).st = s.st := rfl
@[simp] theorem State.quit_fb : (s.quit).fb = s.fb := rfl
@[simp] theorem State.quit_keys : (s.quit).keys = s.keys := rfl
@[simp] theorem State.quit_halted : (s.quit).halted = s.halted := rfl
@[simp] theorem State.quit_fault : (s.quit).fault = s.fault := rfl
@[simp] theorem State.quit_draws : (s.quit).draws = s.draws := rfl
@[simp] theorem State.quit_pending : (s.quit).pending = s.pending := rfl
@[simp] theorem State.quit_output : (s.quit).output = s.output := rfl
@[simp] theorem State.quit_ended : (s.quit).ended = true := rfl

end

/-! ## `State.popEvent` -/

section
variable (s : State)

@[simp] theorem State.popEvent_v : (s.popEvent).v = s.v := rfl
@[simp] theorem State.popEvent_i : (s.popEvent).i = s.i := rfl
@[simp] theorem State.popEvent_pc : (s.popEvent).pc = s.pc := rfl
@[simp] theorem State.popEvent_sp : (s.popEvent).sp = s.sp := rfl
@[simp] theorem State.popEvent_stack : (s.popEvent).stack = s.stack := rfl
@[simp] theorem State.popEvent_opcode : (s.popEvent).opcode = s.opcode := rfl
@[simp] theorem State.popEvent_mem : (s.popEvent).mem = s.mem := rfl
@[simp] theorem State.popEvent_dt : (s.popEvent).dt = s.dt := rfl
@[simp] theorem State.popEvent_st : (s.popEvent).st = s.st := rfl
@[simp] theorem State.popEvent_fb : (s.popEvent).fb = s.fb := rfl
@[simp] theorem State.popEvent_keys : (s.popEvent).keys = s.keys := rfl
@[simp] theorem State.popEvent_halted : (s.popEvent).halted = s.halted := rfl
@[simp] theorem State.popEvent_fault : (s.popEvent).fault = s.fault := rfl
@[simp] theorem State.popEvent_draws : (s.popEvent).draws = s.draws := rfl
@[simp] theorem State.popEvent_pending : (s.popEvent).pending = s.pending.tail := rfl
@[simp] theorem State.popEvent_output : (s.popEvent).output = s.output := rfl
@[simp] theorem State.popEvent_ended : (s.popEvent).ended = s.ended := rfl

end

/-! ## `State.drawSprite` -/

section
variable (s : State) (x y : RegId) (n : Nat)

@[simp] theorem State.drawSprite_i : (s.drawSprite x y n).i = s.i := rfl
@[simp] theorem State.drawSprite_pc : (s.drawSprite x y n).pc = s.pc := rfl
@[simp] theorem State.drawSprite_sp : (s.drawSprite x y n).sp = s.sp := rfl
@[simp] theorem State.drawSprite_stack : (s.drawSprite x y n).stack = s.stack := rfl
@[simp] theorem State.drawSprite_opcode : (s.drawSprite x y n).opcode = s.opcode := rfl
@[simp] theorem State.drawSprite_mem : (s.drawSprite x y n).mem = s.mem := rfl
@[simp] theorem State.drawSprite_dt : (s.drawSprite x y n).dt = s.dt := rfl
@[simp] theorem State.drawSprite_st : (s.drawSprite x y n).st = s.st := rfl
@[simp] theorem State.drawSprite_keys : (s.drawSprite x y n).keys = s.keys := rfl
@[simp] theorem State.drawSprite_halted : (s.drawSprite x y n).halted = s.halted := rfl
@[simp] theorem State.drawSprite_fault : (s.drawSprite x y n).fault = s.fault := rfl
@[simp] theorem State.drawSprite_draws : (s.drawSprite x y n).draws = s.draws := rfl
@[simp] theorem State.drawSprite_pending : (s.drawSprite x y n).pending = s.pending := rfl
@[simp] theorem State.drawSprite_output : (s.drawSprite x y n).output = s.output := rfl
@[simp] theorem State.drawSprite_ended : (s.drawSprite x y n).ended = s.ended := rfl

end

/-! ## `State.skipIf` -/

section
variable (s : State) (c : Bool)

@[simp] theorem State.skipIf_pc : (s.skipIf c).pc = if c then s.pc + 2 else s.pc := by
  cases c <;> rfl
@[simp] theorem State.skipIf_v : (s.skipIf c).v = s.v := by
  cases c <;> rfl
@[simp] theorem State.skipIf_i : (s.skipIf c).i = s.i := by
  cases c <;> rfl
@[simp] theorem State.skipIf_sp : (s.skipIf c).sp = s.sp := by
  cases c <;> rfl
@[simp] theorem State.skipIf_stack : (s.skipIf c).stack = s.stack := by
  cases c <;> rfl
@[simp] theorem State.skipIf_opcode : (s.skipIf c).opcode = s.opcode := by
  cases c <;> rfl
@[simp] theorem State.skipIf_mem : (s.skipIf c).mem = s.mem := by
  cases c <;> rfl
@[simp] theorem State.skipIf_dt : (s.skipIf c).dt = s.dt := by
  cases c <;> rfl
@[simp] theorem State.skipIf_st : (s.skipIf c).st = s.st := by
  cases c <;> rfl
@[simp] theorem State.skipIf_fb : (s.skipIf c).fb = s.fb := by
  cases c <;> rfl
@[simp] theorem State.skipIf_keys : (s.skipIf c).keys = s.keys := by
  cases c <;> rfl
@[simp] theorem State.skipIf_halted : (s.skipIf c).halted = s.halted := by
  cases c <;> rfl
@[simp] theorem State.skipIf_fault : (s.skipIf c).fault = s.fault := by
  cases c <;> rfl
@[simp] theorem State.skipIf_draws : (s.skipIf c).draws = s.draws := by
  cases c <;> rfl
@[simp] theorem State.skipIf_pending : (s.skipIf c).pending = s.pending := by
  cases c <;> rfl
@[simp] theorem State.skipIf_output : (s.skipIf c).output = s.output := by
  cases c <;> rfl
@[simp] theorem State.skipIf_ended : (s.skipIf c).ended = s.ended := by
  cases c <;> rfl

end

end Sys2Proof.Machine
end

