-- ==== Sys2Proof/Laws/Memory.lean ====
section
/-! SUPPORT. The laws of memory: read after write, and that every operation keeps the canonical form. -/

namespace Sys2Proof.Machine

/-! ## Canonical form -/

/-- A list canonical from some address on is canonical from every lower one. -/
theorem Memory.wfFrom_mono {lo lo' : Nat} {m : Memory} (h : Memory.wfFrom lo m = true) (hle : lo' ≤ lo) :
    Memory.wfFrom lo' m = true := by
  cases m with
  | nil => rfl
  | cons c rest =>
    simp only [Memory.wfFrom, Bool.and_eq_true, decide_eq_true_eq] at h ⊢
    exact ⟨⟨⟨by omega, h.1.1.2⟩, h.1.2⟩, h.2⟩

/-- Putting a cell in front of a list canonical from the next address on. -/
theorem Memory.wfFrom_consCell {lo a : Nat} {b : Byte} {m : Memory} (h : Memory.wfFrom (a + 1) m = true)
    (hlo : lo ≤ a) (ha : a < 4096) : Memory.wfFrom lo (Memory.consCell a b m) = true := by
  unfold Memory.consCell
  split
  · exact Memory.wfFrom_mono h (by omega)
  · rename_i hb
    simp [Memory.wfFrom, h, hlo, ha, hb]

theorem Memory.wfFrom_write {lo a : Nat} {b : Byte} {m : Memory} (h : Memory.wfFrom lo m = true)
    (hlo : lo ≤ a) (ha : a < 4096) : Memory.wfFrom lo (m.write a b) = true := by
  induction m generalizing lo with
  | nil => exact Memory.wfFrom_consCell rfl hlo ha
  | cons c rest ih =>
    obtain ⟨k, v⟩ := c
    have h' := h
    simp only [Memory.wfFrom, Bool.and_eq_true, decide_eq_true_eq] at h'
    unfold Memory.write
    split
    · refine Memory.wfFrom_consCell ?_ hlo ha
      simp only [Memory.wfFrom, Bool.and_eq_true, decide_eq_true_eq]
      exact ⟨⟨⟨by omega, h'.1.1.2⟩, h'.1.2⟩, h'.2⟩
    · split
      · rename_i hak
        exact Memory.wfFrom_consCell (hak ▸ h'.2) hlo ha
      · simp only [Memory.wfFrom, Bool.and_eq_true, decide_eq_true_eq]
        exact ⟨h'.1, ih h'.2 (by omega)⟩

/-- A write below 4096 keeps the canonical form. -/
theorem Memory.wf_write {m : Memory} (h : m.wf = true) {a : Nat} (b : Byte) (ha : a < 4096) :
    (m.write a b).wf = true := Memory.wfFrom_write h (Nat.zero_le a) ha

/-- A run of writes below 4096 keeps the canonical form. -/
theorem Memory.wf_writeBlock {m : Memory} (h : m.wf = true) {base : Nat} {bytes : List Byte}
    (ha : base + bytes.length ≤ 4096) : (m.writeBlock base bytes).wf = true := by
  induction bytes generalizing m base with
  | nil => exact h
  | cons b rest ih =>
    simp only [List.length_cons] at ha
    exact ih (Memory.wf_write h b (by omega)) (by omega)

/-! ## Read after write -/

/-- A list canonical from `lo` on lists nothing below `lo`. -/
theorem Memory.read_below {lo a : Nat} {m : Memory} (h : Memory.wfFrom lo m = true) (ha : a < lo) :
    m.read a = Memory.unlisted a := by
  induction m generalizing lo with
  | nil => rfl
  | cons c rest ih =>
    simp only [Memory.wfFrom, Bool.and_eq_true, decide_eq_true_eq] at h
    unfold Memory.read
    rw [if_neg (by omega)]
    exact ih h.2 (by omega)

theorem Memory.read_consCell_other {m : Memory} {a a' : Nat} (b : Byte) (ha : a' ≠ a) :
    (Memory.consCell a b m).read a' = m.read a' := by
  unfold Memory.consCell
  split
  · rfl
  · simp [Memory.read, ha]

theorem Memory.read_consCell_same {m : Memory} {a : Nat} (b : Byte) (h : Memory.wfFrom (a + 1) m = true) :
    (Memory.consCell a b m).read a = b := by
  unfold Memory.consCell
  split
  · rename_i hb
    rw [Memory.read_below h (by omega), hb]
  · simp [Memory.read]

/-- A write leaves every other address alone, in every list of cells. -/
theorem Memory.read_write_other (m : Memory) {a a' : Nat} (b : Byte) (ha : a' ≠ a) :
    (m.write a b).read a' = m.read a' := by
  induction m with
  | nil => exact Memory.read_consCell_other b ha
  | cons c rest ih =>
    obtain ⟨k, v⟩ := c
    unfold Memory.write
    split
    · exact Memory.read_consCell_other b ha
    · split
      · rename_i hak
        rw [Memory.read_consCell_other b ha]
        simp [Memory.read, ← hak, ha]
      · simp only [Memory.read, ih]

/-- A read after a write to the same address gives the byte written. -/
theorem Memory.read_write_same {lo a : Nat} {m : Memory} (b : Byte) (h : Memory.wfFrom lo m = true) :
    (m.write a b).read a = b := by
  induction m generalizing lo with
  | nil => exact Memory.read_consCell_same b rfl
  | cons c rest ih =>
    obtain ⟨k, v⟩ := c
    have h' := h
    simp only [Memory.wfFrom, Bool.and_eq_true, decide_eq_true_eq] at h'
    unfold Memory.write
    split
    · refine Memory.read_consCell_same b ?_
      simp only [Memory.wfFrom, Bool.and_eq_true, decide_eq_true_eq]
      exact ⟨⟨⟨by omega, h'.1.1.2⟩, h'.1.2⟩, h'.2⟩
    · split
      · rename_i hak
        exact Memory.read_consCell_same b (hak ▸ h'.2)
      · rename_i hlt hne
        simp only [Memory.read, if_neg hne]
        exact ih h'.2

/-- A run of writes leaves the addresses outside it alone. -/
theorem Memory.read_writeBlock_other (m : Memory) {base a : Nat} {bytes : List Byte}
    (ha : a < base ∨ base + bytes.length ≤ a) : (m.writeBlock base bytes).read a = m.read a := by
  induction bytes generalizing m base with
  | nil => rfl
  | cons b rest ih =>
    simp only [List.length_cons] at ha
    show ((m.write base b).writeBlock (base + 1) rest).read a = m.read a
    rw [ih _ (by omega), Memory.read_write_other m b (by omega)]

/-- A read inside a run of writes gives the byte written there. -/
theorem Memory.read_writeBlock_inside {m : Memory} (h : m.wf = true) {base k : Nat} {bytes : List Byte}
    (hk : k < bytes.length) (ha : base + bytes.length ≤ 4096) :
    (m.writeBlock base bytes).read (base + k) = bytes[k] := by
  induction bytes generalizing m base k with
  | nil => simp at hk
  | cons b rest ih =>
    simp only [List.length_cons] at hk ha
    show ((m.write base b).writeBlock (base + 1) rest).read (base + k) = _
    cases k with
    | zero =>
      rw [Memory.read_writeBlock_other _ (by omega)]
      exact Memory.read_write_same b h
    | succ k =>
      have := ih (m := m.write base b) (base := base + 1) (k := k) (Memory.wf_write h b (by omega)) (by omega) (by omega)
      rw [show base + (k + 1) = base + 1 + k by omega, this]
      rfl

/-! ## Runs of reads -/

@[simp] theorem Memory.readBlock_length (m : Memory) (base count : Nat) : (m.readBlock base count).length = count := by
  simp [Memory.readBlock]

@[simp] theorem Memory.readBlock_getElem (m : Memory) (base count k : Nat) (h : k < (m.readBlock base count).length) :
    (m.readBlock base count)[k] = m.read (base + k) := by
  simp [Memory.readBlock]

theorem Memory.readBlock_succ (m : Memory) (base count : Nat) :
    m.readBlock base (count + 1) = m.read base :: m.readBlock (base + 1) count := by
  simp [Memory.readBlock, List.range_succ_eq_map, Function.comp_def, Nat.add_assoc, Nat.add_comm 1]

/-- The reset memory is canonical. -/
theorem Memory.wf_nil : Memory.wf [] = true := rfl

end Sys2Proof.Machine
end

