-- ==== Sys2Proof/Laws/Operands.lean ====
section
/-! SUPPORT. What each operand form and flag can be, said once. -/

namespace Sys2Proof.Machine

/-! ## Registers -/

theorem State.reg_setReg (s : State) (x r : RegId) (b : Byte) :
    (s.setReg x b).reg r = if r = x then b else s.reg r := by
  unfold State.reg State.setReg
  simp only [Vector.getElem_set]
  by_cases h : r = x
  · simp [h]
  · have : x.toNat ≠ r.toNat := fun e => h (BitVec.eq_of_toNat_eq e.symm)
    simp [h, this]

@[simp] theorem State.reg_setReg_same (s : State) (x : RegId) (b : Byte) : (s.setReg x b).reg x = b := by
  simp [State.reg_setReg]

theorem State.reg_setReg_other (s : State) {x r : RegId} (b : Byte) (h : r ≠ x) : (s.setReg x b).reg r = s.reg r := by
  simp [State.reg_setReg, h]

/-- Result first, flag second (R173). -/
theorem State.reg_setResultFlag (s : State) (x r : RegId) (b : Byte) (f : Bool) :
    (s.setResultFlag x b f).reg r = if r = 15 then flagByte f else if r = x then b else s.reg r := by
  unfold State.setResultFlag
  rw [State.reg_setReg, State.reg_setReg]

/-- A register read sees the register file alone. -/
theorem State.reg_congr {s t : State} (h : t.v = s.v) (x : RegId) : t.reg x = s.reg x := by
  unfold State.reg
  simp [h]

theorem State.reg_loadRegs (s : State) (x r : RegId) :
    (s.loadRegs x).reg r = if r.toNat ≤ x.toNat then s.mem.read (s.i.toNat + r.toNat) else s.reg r := by
  unfold State.reg State.loadRegs State.blockAddr
  simp only [Vector.getElem_mapIdx]

theorem State.regsUpTo_length (s : State) (x : RegId) : (s.regsUpTo x).length = x.toNat + 1 := by
  have := x.isLt
  simp [State.regsUpTo]
  omega

theorem State.regsUpTo_getElem (s : State) (x r : RegId) (h : r.toNat < (s.regsUpTo x).length) :
    (s.regsUpTo x)[r.toNat] = s.reg r := by
  simp [State.regsUpTo, State.reg]

/-! ## Blocks -/

@[simp] theorem State.blockAddr_eq (s : State) (k : Nat) : s.blockAddr k = s.i.toNat + k := rfl

/-- A block is in range exactly when it is empty or ends at or below 4096. -/
theorem checkBlock_eq_none {base count : Nat} : checkBlock base count = none ↔ count = 0 ∨ base + count ≤ 4096 := by
  unfold checkBlock
  rw [List.find?_eq_none]
  simp only [List.mem_map, List.mem_range, decide_eq_true_eq, not_le, Config.memSize]
  constructor
  · intro h
    by_cases h0 : count = 0
    · exact .inl h0
    · have := h (base + (count - 1)) ⟨count - 1, by omega, rfl⟩
      right; omega
  · rintro h a ⟨k, hk, rfl⟩
    omega

/-- Otherwise the lowest address out of range is reported (R305): the base itself, or 4096. -/
theorem checkBlock_eq_some {base count a : Nat} :
    checkBlock base count = some a ↔ count ≠ 0 ∧ 4096 < base + count ∧ a = max base 4096 := by
  unfold checkBlock
  constructor
  · intro h
    rw [List.find?_eq_some_iff_getElem] at h
    obtain ⟨h4, k, hk, rfl, hlow⟩ := h
    simp only [List.length_map, List.length_range, List.getElem_map, List.getElem_range,
      decide_eq_true_eq, Bool.not_eq_true', decide_eq_false_iff_not, not_le, Config.memSize] at hk h4 hlow ⊢
    refine ⟨by omega, by omega, ?_⟩
    rcases Nat.eq_zero_or_pos k with rfl | hpos
    · omega
    · have := hlow (k - 1) (by omega)
      omega
  · rintro ⟨h0, hover, rfl⟩
    rw [List.find?_eq_some_iff_getElem]
    refine ⟨by simp [Config.memSize], max base 4096 - base, by simp; omega, by simp, ?_⟩
    intro j hj
    simp [Config.memSize]
    omega

theorem checkBlock_in_range {base count : Nat} (h : base + count ≤ 4096) : checkBlock base count = none :=
  checkBlock_eq_none.mpr (.inr h)

theorem checkBlock_out_of_range {base count : Nat} (h0 : count ≠ 0) (h : 4096 < base + count) :
    checkBlock base count = some (max base 4096) := checkBlock_eq_some.mpr ⟨h0, h, rfl⟩

/-! ## Keys -/

/-- The lowest pressed key: it is pressed, and every lower one is up. -/
theorem State.lowestKey_eq_some {s : State} {k : Nat} :
    s.lowestKey = some k ↔ s.keys[k]? = some true ∧ ∀ j < k, s.keys[j]? = some false := by
  unfold State.lowestKey State.keyAt
  rw [List.find?_eq_some_iff_getElem]
  simp only [List.length_range, List.getElem_range]
  constructor
  · rintro ⟨h, i, hi, rfl, hlow⟩
    refine ⟨by simpa using h, fun j hj => ?_⟩
    have := hlow j hj
    have hj16 : j < 16 := Nat.lt_trans hj hi
    simp only [Vector.getElem?_eq_getElem hj16] at this ⊢
    simpa using this
  · rintro ⟨h, hlow⟩
    have hk : k < 16 := by
      by_contra hc
      simp [Vector.getElem?_eq_none (Nat.le_of_not_lt hc)] at h
    refine ⟨by simp [h], k, hk, rfl, fun j hj => ?_⟩
    simp [hlow j hj]

/-- No key is pressed. -/
theorem State.lowestKey_eq_none {s : State} : s.lowestKey = none ↔ ∀ k : Fin 16, s.keys[k.val] = false := by
  unfold State.lowestKey State.keyAt
  rw [List.find?_eq_none]
  simp only [List.mem_range]
  constructor
  · intro h k
    have := h k.val k.isLt
    simpa using this
  · intro h k hk
    simp [Vector.getElem?_eq_getElem hk, h ⟨k, hk⟩]

/-! ## Flags -/

@[simp] theorem flagByte_true : flagByte true = 1 := rfl
@[simp] theorem flagByte_false : flagByte false = 0 := rfl

theorem flagByte_toNat (f : Bool) : (flagByte f).toNat = f.toNat := by cases f <;> rfl

/-- Sum and carry are the exact sum. -/
theorem add_carry_exact (a b : Byte) : (a + b).toNat + 256 * (carryFlag a b).toNat = a.toNat + b.toNat := by
  have := a.isLt; have := b.isLt
  unfold carryFlag
  by_cases h : 255 < a.toNat + b.toNat <;> simp [BitVec.toNat_add, h] <;> omega

/-- Difference and borrow are the exact difference. -/
theorem sub_borrow_exact (a b : Byte) :
    (a - b).toNat + b.toNat + 256 * (noBorrowFlag a b).toNat = a.toNat + 256 := by
  have := a.isLt; have := b.isLt
  unfold noBorrowFlag
  by_cases h : b.toNat ≤ a.toNat <;> simp [BitVec.toNat_sub, h] <;> omega

/-! ## Decimal digits -/

@[simp] theorem bcdDigits_length (v : Byte) : (bcdDigits v).length = 3 := rfl

end Sys2Proof.Machine
end

