-- ==== Sys2Proof/Laws/Display.lean ====
section
/-! SUPPORT. What drawing does to each pixel: the loops of draw-sprite give every screen pixel its exclusive or with the
sprite, clipped (spec/44_display.md R232, R235). -/

namespace Sys2Proof.Machine

/-! ## Pixels -/

theorem pixel_in (fb : FrameBuffer) {r c : Nat} (hr : r < 32) (hc : c < 64) : pixel fb r c = fb[r][c] := by
  simp [pixel, hr, hc]

theorem pixel_out (fb : FrameBuffer) {r c : Nat} (h : ¬(r < 32 ∧ c < 64)) : pixel fb r c = false := by
  simp only [pixel, dif_neg h]

@[simp] theorem pixel_blank (r c : Nat) : pixel FrameBuffer.blank r c = false := by
  unfold pixel FrameBuffer.blank
  split <;> simp

/-- Two grids are equal when all their pixels are. -/
theorem frameBuffer_ext {f g : FrameBuffer} (h : ∀ r c, r < 32 → c < 64 → pixel f r c = pixel g r c) : f = g := by
  ext r hr c hc
  have := h r c hr hc
  simpa [pixel, hr, hc] using this

/-- Toggling flips one pixel of the grid and no other. -/
theorem pixel_togglePixel (fb : FrameBuffer) (r c r' c' : Nat) :
    pixel (togglePixel fb r c) r' c' = (pixel fb r' c' ^^ (decide (r' = r ∧ c' = c) && decide (r < 32 ∧ c < 64))) := by
  unfold togglePixel
  by_cases h : r < 32 ∧ c < 64
  · rw [dif_pos h]
    by_cases h' : r' < 32 ∧ c' < 64
    · unfold pixel
      rw [dif_pos h', dif_pos h', Vector.getElem_set]
      by_cases hr : r = r'
      · subst hr
        simp only [↓reduceIte, Vector.getElem_set]
        by_cases hc : c = c'
        · subst hc; simp [h]
        · have : c' ≠ c := fun e => hc e.symm
          simp [hc, this]
      · have : r' ≠ r := fun e => hr e.symm
        simp [hr, this]
    · rw [pixel_out _ h', pixel_out _ h']
      have : ¬(r' = r ∧ c' = c) := by rintro ⟨rfl, rfl⟩; exact h' h
      simp [this]
  · rw [dif_neg h]
    simp [h]

/-! ## One sprite byte -/

/-- The pixel one sprite byte at row `py`, column `cx` puts on screen pixel `(c, r)`. -/
def rowPixel (py cx : Nat) (byte : Byte) (r c : Nat) : Bool :=
  decide (r = py) && decide (cx ≤ c) && decide (c < cx + 8) && spriteBit byte (c - cx)

theorem drawBit_on {py cx : Nat} {byte : Byte} {b : Nat} (acc : FrameBuffer × Bool) (h : spriteBit byte b = true) :
    drawBit py cx byte acc b = (togglePixel acc.1 py (cx + b), acc.2 || pixel acc.1 py (cx + b)) := if_pos h

theorem drawBit_off {py cx : Nat} {byte : Byte} {b : Nat} (acc : FrameBuffer × Bool) (h : ¬ spriteBit byte b = true) :
    drawBit py cx byte acc b = acc := if_neg h

/-- The loop over the columns, up to column `n`: pixels. -/
theorem pixel_foldl_drawBit (py cx : Nat) (byte : Byte) (acc : FrameBuffer × Bool) (n r c : Nat) (hr : r < 32)
    (hc : c < 64) :
    pixel ((List.range n).foldl (drawBit py cx byte) acc).1 r c =
      (pixel acc.1 r c ^^ (decide (r = py) && decide (cx ≤ c) && decide (c < cx + n) && spriteBit byte (c - cx))) := by
  induction n with
  | zero =>
    by_cases h1 : cx ≤ c
    · have : ¬ c < cx := by omega
      simp [this]
    · simp [h1]
  | succ n ih =>
    rw [List.range_succ, List.foldl_append, List.foldl_cons, List.foldl_nil]
    by_cases hb : spriteBit byte n = true
    · rw [drawBit_on _ hb]
      rw [pixel_togglePixel, ih]
      by_cases hrp : r = py
      · by_cases hcc : c = cx + n
        · subst hrp hcc
          simp [hr, hc, hb]
        · have : (c < cx + (n + 1)) ↔ (c < cx + n) := by omega
          simp [hcc, this]
      · simp [hrp]
    · rw [drawBit_off _ hb, ih]
      by_cases hcc : c = cx + n
      · subst hcc
        simp [hb]
      · have : (c < cx + (n + 1)) ↔ (c < cx + n) := by omega
        simp [this]

/-- The loop over the columns, up to column `n`: collision. -/
theorem collision_foldl_drawBit (py cx : Nat) (byte : Byte) (acc : FrameBuffer × Bool) (n : Nat) :
    ((List.range n).foldl (drawBit py cx byte) acc).2 = true ↔
      acc.2 = true ∨ ∃ c, cx ≤ c ∧ c < cx + n ∧ spriteBit byte (c - cx) = true ∧ pixel acc.1 py c = true := by
  induction n with
  | zero => simp; intros; omega
  | succ n ih =>
    rw [List.range_succ, List.foldl_append, List.foldl_cons, List.foldl_nil]
    by_cases hb : spriteBit byte n = true
    · rw [drawBit_on _ hb]
      simp only [Bool.or_eq_true]
      rw [ih]
      have hsame : pixel ((List.range n).foldl (drawBit py cx byte) acc).1 py (cx + n) = pixel acc.1 py (cx + n) := by
        by_cases hg : py < 32 ∧ cx + n < 64
        · rw [pixel_foldl_drawBit _ _ _ _ _ _ _ hg.1 hg.2]; simp
        · rw [pixel_out _ hg, pixel_out _ hg]
      rw [hsame]
      constructor
      · rintro ((h | ⟨c, h1, h2, h3, h4⟩) | h)
        · exact .inl h
        · exact .inr ⟨c, h1, by omega, h3, h4⟩
        · exact .inr ⟨cx + n, by omega, by omega, by simpa using hb, h⟩
      · rintro (h | ⟨c, h1, h2, h3, h4⟩)
        · exact .inl (.inl h)
        · by_cases hcc : c = cx + n
          · exact .inr (hcc ▸ h4)
          · exact .inl (.inr ⟨c, h1, by omega, h3, h4⟩)
    · rw [drawBit_off _ hb, ih]
      constructor
      · rintro (h | ⟨c, h1, h2, h3, h4⟩)
        · exact .inl h
        · exact .inr ⟨c, h1, by omega, h3, h4⟩
      · rintro (h | ⟨c, h1, h2, h3, h4⟩)
        · exact .inl h
        · by_cases hcc : c = cx + n
          · subst hcc; simp [hb] at h3
          · exact .inr ⟨c, h1, by omega, h3, h4⟩

theorem pixel_drawRow (py cx : Nat) (byte : Byte) (acc : FrameBuffer × Bool) {r c : Nat} (hr : r < 32) (hc : c < 64) :
    pixel (drawRow py cx byte acc).1 r c = (pixel acc.1 r c ^^ rowPixel py cx byte r c) :=
  pixel_foldl_drawBit py cx byte acc 8 r c hr hc

theorem collision_drawRow (py cx : Nat) (byte : Byte) (acc : FrameBuffer × Bool) :
    (drawRow py cx byte acc).2 = true ↔
      acc.2 = true ∨ ∃ c, rowPixel py cx byte py c = true ∧ pixel acc.1 py c = true := by
  unfold drawRow
  rw [collision_foldl_drawBit]
  simp only [rowPixel, decide_true, Bool.true_and, Bool.and_eq_true, decide_eq_true_eq, and_assoc]

/-! ## All sprite bytes -/

/-- The sprite's pixel seen from its first byte on. -/
theorem spritePixel_succ (m : Memory) (base n cx cy r c : Nat) :
    spritePixel m base (n + 1) cx cy r c =
      (rowPixel cy cx (m.read base) r c ^^ spritePixel m (base + 1) n cx (cy + 1) r c) := by
  unfold spritePixel rowPixel spriteBit
  rcases Nat.lt_trichotomy r cy with h | h | h
  · have h1 : ¬ cy ≤ r := by omega
    have h2 : ¬ cy + 1 ≤ r := by omega
    have h3 : r ≠ cy := by omega
    simp [h1, h2, h3]
  · subst h
    have h2 : ¬ r + 1 ≤ r := by omega
    simp [h2]
  · have h1 : cy ≤ r := by omega
    have h2 : cy + 1 ≤ r := by omega
    have h3 : r ≠ cy := by omega
    have h4 : base + (r - cy) = base + 1 + (r - (cy + 1)) := by omega
    have h5 : (r < cy + (n + 1)) ↔ (r < cy + 1 + n) := by omega
    simp [h1, h2, h3, h4, h5]

theorem spritePixel_zero (m : Memory) (base cx cy r c : Nat) : spritePixel m base 0 cx cy r c = false := by
  unfold spritePixel
  by_cases h : cy ≤ r
  · simp [show ¬ r < cy by omega]
  · simp [h]

/-- Every pixel after all rows: its exclusive or with the sprite. -/
theorem pixel_drawRows (m : Memory) (base n cx py : Nat) (acc : FrameBuffer × Bool) {r c : Nat} (hr : r < 32)
    (hc : c < 64) :
    pixel (drawRows cx (m.readBlock base n) py acc).1 r c = (pixel acc.1 r c ^^ spritePixel m base n cx py r c) := by
  induction n generalizing base py acc with
  | zero => simp [Memory.readBlock, drawRows, spritePixel_zero]
  | succ n ih =>
    rw [Memory.readBlock_succ, drawRows, ih, pixel_drawRow _ _ _ _ hr hc, spritePixel_succ, Bool.xor_assoc]

/-- The collision after all rows: some sprite pixel met a set screen pixel. -/
theorem collision_drawRows (m : Memory) (base n cx py : Nat) (acc : FrameBuffer × Bool) :
    (drawRows cx (m.readBlock base n) py acc).2 = true ↔
      acc.2 = true ∨ ∃ r c, r < 32 ∧ c < 64 ∧ spritePixel m base n cx py r c = true ∧ pixel acc.1 r c = true := by
  induction n generalizing base py acc with
  | zero => simp [Memory.readBlock, drawRows, spritePixel_zero]
  | succ n ih =>
    rw [Memory.readBlock_succ, drawRows, ih, collision_drawRow]
    have disj : ∀ r c, spritePixel m (base + 1) n cx (py + 1) r c = true → rowPixel py cx (m.read base) r c = false := by
      intro r c h
      simp only [spritePixel, Bool.and_eq_true, decide_eq_true_eq] at h
      have : r ≠ py := by omega
      simp [rowPixel, this]
    constructor
    · rintro ((h | ⟨c, h1, h2⟩) | ⟨r, c, hr, hc, h1, h2⟩)
      · exact .inl h
      · by_cases hg : py < 32 ∧ c < 64
        · refine .inr ⟨py, c, hg.1, hg.2, ?_, h2⟩
          have : ¬ py + 1 ≤ py := by omega
          rw [spritePixel_succ, h1]
          simp [spritePixel, this]
        · rw [pixel_out _ hg] at h2; cases h2
      · refine .inr ⟨r, c, hr, hc, ?_, ?_⟩
        · rw [spritePixel_succ, disj r c h1, h1]; rfl
        · rwa [pixel_drawRow _ _ _ _ hr hc, disj r c h1, Bool.xor_false] at h2
    · rintro (h | ⟨r, c, hr, hc, h1, h2⟩)
      · exact .inl (.inl h)
      · rw [spritePixel_succ] at h1
        cases hrow : rowPixel py cx (m.read base) r c with
        | true =>
          have : r = py := by
            simp only [rowPixel, Bool.and_eq_true, decide_eq_true_eq] at hrow
            exact hrow.1.1.1
          subst this
          exact .inl (.inr ⟨c, hrow, h2⟩)
        | false =>
          rw [hrow, Bool.false_xor] at h1
          refine .inr ⟨r, c, hr, hc, h1, ?_⟩
          rw [pixel_drawRow _ _ _ _ hr hc, hrow, Bool.xor_false, h2]

/-! ## Draw-sprite -/

/-- Every pixel of the grid after a draw (R232). -/
theorem State.pixel_drawSprite (s : State) (x y : RegId) (n : Nat) {r c : Nat} (hr : r < 32) (hc : c < 64) :
    pixel (s.drawSprite x y n).fb r c = (pixel s.fb r c ^^ s.drawnPixel x y n r c) :=
  pixel_drawRows s.mem s.i.toNat n _ _ _ hr hc

/-- VF after a draw (R232): 1 exactly when some sprite pixel met a set screen pixel. -/
theorem State.flag_drawSprite (s : State) (x y : RegId) (n : Nat) :
    ∃ f : Bool, (s.drawSprite x y n).reg 15 = flagByte f ∧
      (f = true ↔ ∃ r c, r < 32 ∧ c < 64 ∧ s.drawnPixel x y n r c = true ∧ pixel s.fb r c = true) := by
  refine ⟨_, State.reg_setReg_same _ _ _, ?_⟩
  rw [collision_drawRows]
  simp only [Bool.false_eq_true, false_or]
  rfl

/-- A draw writes no register but VF. -/
theorem State.reg_drawSprite_other (s : State) (x y : RegId) (n : Nat) {r : RegId} (h : r ≠ 15) :
    (s.drawSprite x y n).reg r = s.reg r := State.reg_setReg_other _ _ h

end Sys2Proof.Machine
end

