-- ==== Sys2Proof/Laws/Encoding.lean ====
section
/-! SUPPORT. The fields of each format's word, and bytes against words. -/

namespace Sys2Proof

section
variable (g : BitVec 4) (nnn : Addr) (x y : RegId) (kk : Byte) (n : BitVec 4) (op : Word)

/-! ## Bits of a word -/

theorem getLsbD_wordADDR (j : Nat) :
    (wordADDR g nnn).getLsbD j = if j < 12 then nnn.getLsbD j else g.getLsbD (j - 12) := by
  unfold wordADDR
  exact BitVec.getLsbD_append

theorem getLsbD_wordXKK (j : Nat) :
    (wordXKK g x kk).getLsbD j =
      if j < 8 then kk.getLsbD j else if j < 12 then x.getLsbD (j - 8) else g.getLsbD (j - 12) := by
  unfold wordXKK
  refine BitVec.getLsbD_append.trans ?_
  by_cases h : j < 8
  · simp [h]
  · simp only [h, ↓reduceIte]
    refine BitVec.getLsbD_append.trans ?_
    by_cases h' : j < 12
    · simp [h', show j - 8 < 4 by omega]
    · simp [h', show ¬ j - 8 < 4 by omega, show j - 8 - 4 = j - 12 by omega]

theorem getLsbD_wordXYN (j : Nat) :
    (wordXYN g x y n).getLsbD j =
      if j < 4 then n.getLsbD j else if j < 8 then y.getLsbD (j - 4) else if j < 12 then x.getLsbD (j - 8)
      else g.getLsbD (j - 12) := by
  unfold wordXYN
  refine BitVec.getLsbD_append.trans ?_
  by_cases h : j < 4
  · simp [h]
  · simp only [h, ↓reduceIte]
    refine BitVec.getLsbD_append.trans ?_
    by_cases h' : j < 8
    · simp [h', show j - 4 < 4 by omega]
    · simp only [h', show ¬ j - 4 < 4 by omega, ↓reduceIte]
      refine BitVec.getLsbD_append.trans ?_
      by_cases h'' : j < 12
      · simp [h'', show j - 4 - 4 = j - 8 by omega, show j - 8 < 4 by omega]
      · simp [h'', show ¬ j - 4 - 4 < 4 by omega, show j - 4 - 4 - 4 = j - 12 by omega]

theorem getLsbD_wordOfBytes (hi lo : Byte) (j : Nat) :
    (wordOfBytes hi lo).getLsbD j = if j < 8 then lo.getLsbD j else hi.getLsbD (j - 8) := by
  unfold wordOfBytes
  exact BitVec.getLsbD_append

theorem getLsbD_extract (lo len j : Nat) : (op.extractLsb' lo len).getLsbD j = (decide (j < len) && op.getLsbD (lo + j)) :=
  BitVec.getLsbD_extractLsb' ..

/-! ## The fields of each format's word -/

@[simp] theorem fieldG_wordADDR : fieldG (wordADDR g nnn) = g := by
  refine BitVec.eq_of_getLsbD_eq fun j hj => ?_
  unfold fieldG
  rw [getLsbD_extract, getLsbD_wordADDR]
  simp only [hj, decide_true, Bool.true_and]
  repeat (first | rw [if_pos (by omega)] | rw [if_neg (by omega)])
  rw [show 12 + j - 12 = j by omega]

@[simp] theorem fieldNNN_wordADDR : fieldNNN (wordADDR g nnn) = nnn := by
  refine BitVec.eq_of_getLsbD_eq fun j hj => ?_
  unfold fieldNNN
  rw [getLsbD_extract, getLsbD_wordADDR]
  simp only [hj, decide_true, Bool.true_and]
  rw [Nat.zero_add, if_pos hj]

@[simp] theorem fieldG_wordXKK : fieldG (wordXKK g x kk) = g := by
  refine BitVec.eq_of_getLsbD_eq fun j hj => ?_
  unfold fieldG
  rw [getLsbD_extract, getLsbD_wordXKK]
  simp only [hj, decide_true, Bool.true_and]
  repeat (first | rw [if_pos (by omega)] | rw [if_neg (by omega)])
  rw [show 12 + j - 12 = j by omega]

@[simp] theorem fieldX_wordXKK : fieldX (wordXKK g x kk) = x := by
  refine BitVec.eq_of_getLsbD_eq fun j hj => ?_
  unfold fieldX
  rw [getLsbD_extract, getLsbD_wordXKK]
  simp only [hj, decide_true, Bool.true_and]
  repeat (first | rw [if_pos (by omega)] | rw [if_neg (by omega)])
  rw [show 8 + j - 8 = j by omega]

@[simp] theorem fieldKK_wordXKK : fieldKK (wordXKK g x kk) = kk := by
  refine BitVec.eq_of_getLsbD_eq fun j hj => ?_
  unfold fieldKK
  rw [getLsbD_extract, getLsbD_wordXKK]
  simp only [hj, decide_true, Bool.true_and]
  rw [Nat.zero_add, if_pos hj]

@[simp] theorem fieldG_wordXYN : fieldG (wordXYN g x y n) = g := by
  refine BitVec.eq_of_getLsbD_eq fun j hj => ?_
  unfold fieldG
  rw [getLsbD_extract, getLsbD_wordXYN]
  simp only [hj, decide_true, Bool.true_and]
  repeat (first | rw [if_pos (by omega)] | rw [if_neg (by omega)])
  rw [show 12 + j - 12 = j by omega]

@[simp] theorem fieldX_wordXYN : fieldX (wordXYN g x y n) = x := by
  refine BitVec.eq_of_getLsbD_eq fun j hj => ?_
  unfold fieldX
  rw [getLsbD_extract, getLsbD_wordXYN]
  simp only [hj, decide_true, Bool.true_and]
  repeat (first | rw [if_pos (by omega)] | rw [if_neg (by omega)])
  rw [show 8 + j - 8 = j by omega]

@[simp] theorem fieldY_wordXYN : fieldY (wordXYN g x y n) = y := by
  refine BitVec.eq_of_getLsbD_eq fun j hj => ?_
  unfold fieldY
  rw [getLsbD_extract, getLsbD_wordXYN]
  simp only [hj, decide_true, Bool.true_and]
  repeat (first | rw [if_pos (by omega)] | rw [if_neg (by omega)])
  rw [show 4 + j - 4 = j by omega]

@[simp] theorem fieldN_wordXYN : fieldN (wordXYN g x y n) = n := by
  refine BitVec.eq_of_getLsbD_eq fun j hj => ?_
  unfold fieldN
  rw [getLsbD_extract, getLsbD_wordXYN]
  simp only [hj, decide_true, Bool.true_and]
  rw [Nat.zero_add, if_pos hj]

/-- A word is the word of its fields, format `ADDR`. -/
theorem wordADDR_fields : wordADDR (fieldG op) (fieldNNN op) = op := by
  refine BitVec.eq_of_getLsbD_eq fun j hj => ?_
  rw [getLsbD_wordADDR]
  simp only [fieldG, fieldNNN, getLsbD_extract]
  split_ifs <;> rw [decide_eq_true (by omega), Bool.true_and] <;> exact congrArg _ (by omega)

/-- A word is the word of its fields, formats `XKK` and `XOP`. -/
theorem wordXKK_fields : wordXKK (fieldG op) (fieldX op) (fieldKK op) = op := by
  refine BitVec.eq_of_getLsbD_eq fun j hj => ?_
  rw [getLsbD_wordXKK]
  simp only [fieldG, fieldX, fieldKK, getLsbD_extract]
  split_ifs <;> rw [decide_eq_true (by omega), Bool.true_and] <;> exact congrArg _ (by omega)

/-- A word is the word of its fields, format `XYN`. -/
theorem wordXYN_fields : wordXYN (fieldG op) (fieldX op) (fieldY op) (fieldN op) = op := by
  refine BitVec.eq_of_getLsbD_eq fun j hj => ?_
  rw [getLsbD_wordXYN]
  simp only [fieldG, fieldX, fieldY, fieldN, getLsbD_extract]
  split_ifs <;> rw [decide_eq_true (by omega), Bool.true_and] <;> exact congrArg _ (by omega)

/-- The two bytes of a word in memory order give the word back (R51, R81). -/
@[simp] theorem wordOfBytes_bytes : wordOfBytes (highByte op) (lowByte op) = op := by
  refine BitVec.eq_of_getLsbD_eq fun j hj => ?_
  rw [getLsbD_wordOfBytes]
  simp only [highByte, lowByte, getLsbD_extract]
  split_ifs <;> rw [decide_eq_true (by omega), Bool.true_and] <;> exact congrArg _ (by omega)

end

/-- Only the sprite height of `DRW` can be ill formed. -/
theorem Instr.wellFormed_drw {x y : RegId} {n : Nat} : (Instr.drw x y n).wellFormed = true ↔ n < 16 := by
  simp [Instr.wellFormed]

/-- The decoder of bytes on the two bytes of a word. -/
theorem decodeBytes_word (loose : Bool) (op : Word) (rest : List Byte) :
    decodeBytes loose (highByte op :: lowByte op :: rest) =
      match decodeWord loose op with
      | some i => .ok (i, rest)
      | none => .error (.unhandled op) := by
  cases h : decodeWord loose op <;> simp [decodeBytes, h]

end Sys2Proof
end

