-- ==== Sys2Proof/Laws/Ops.lean ====
section
/-! SUPPORT. What each shared operation can do, said once: the block guard, the stack, the key skips, the fetch, the cycle
and the step. -/

namespace Sys2Proof.Machine

/-! ## The block guard -/

/-- A block in range: the guarded state. -/
theorem State.guardBlock_in_range {s : State} {count : Nat} (t : State)
    (h : count = 0 ∨ s.i.toNat + count ≤ 4096) : s.guardBlock count t = .next t := by
  unfold State.guardBlock
  rw [show s.blockAddr 0 = s.i.toNat from rfl, checkBlock_eq_none.mpr h]

/-- A block out of range: the fault, with the lowest address. -/
theorem State.guardBlock_out_of_range {s : State} {count : Nat} (t : State) (h0 : count ≠ 0)
    (h : 4096 < s.i.toNat + count) :
    s.guardBlock count t = s.raise .memoryOutOfRange (some (max s.i.toNat 4096)) := by
  unfold State.guardBlock
  rw [show s.blockAddr 0 = s.i.toNat from rfl, checkBlock_out_of_range h0 h]

/-- A guard answers one of these two. -/
theorem State.guardBlock_cases (s : State) (count : Nat) (t : State) :
    ((count = 0 ∨ s.i.toNat + count ≤ 4096) ∧ s.guardBlock count t = .next t) ∨
      ((count ≠ 0 ∧ 4096 < s.i.toNat + count) ∧
        s.guardBlock count t = s.raise .memoryOutOfRange (some (max s.i.toNat 4096))) := by
  by_cases h : count = 0 ∨ s.i.toNat + count ≤ 4096
  · exact .inl ⟨h, State.guardBlock_in_range t h⟩
  · exact .inr ⟨by omega, State.guardBlock_out_of_range t (by omega) (by omega)⟩

/-! ## The stack -/

theorem State.push_eq_none {s : State} : s.push = none ↔ s.sp.val = 16 := by
  unfold State.push
  have := s.sp.isLt
  split <;> simp <;> omega

theorem State.push_eq_some {s t : State} :
    s.push = some t ↔ ∃ h : s.sp.val < 16,
      t = { s with stack := s.stack.set s.sp.val s.pc h, sp := ⟨s.sp.val + 1, by omega⟩ } := by
  unfold State.push
  split
  · rename_i h
    simp [h, eq_comm]
  · rename_i h
    simp [h]

theorem State.pop_eq_none {s : State} : s.pop = none ↔ s.sp.val = 0 := by
  unfold State.pop
  split <;> simp_all

theorem State.pop_eq_some {s t : State} :
    s.pop = some t ↔ ∃ _h : s.sp.val ≠ 0,
      t = { s with sp := ⟨s.sp.val - 1, by omega⟩, pc := s.stack[s.sp.val - 1]'(by omega) } := by
  unfold State.pop
  split
  · rename_i h
    simp [h]
  · rename_i h
    simp [h, eq_comm]

/-! ## The key skips -/

theorem State.skipOnKey_in_range {s : State} {x : RegId} (want : Bool) (h : (s.reg x).toNat < 16) :
    s.skipOnKey x want = .next (s.skipIf (s.keys[(s.reg x).toNat] == want)) := by
  unfold State.skipOnKey State.keyAt
  rw [Vector.getElem?_eq_getElem h]

theorem State.skipOnKey_out_of_range {s : State} {x : RegId} (want : Bool) (h : 16 ≤ (s.reg x).toNat) :
    s.skipOnKey x want = s.raise .keyIndexOutOfRange (some (s.reg x).toNat) := by
  unfold State.skipOnKey State.keyAt
  rw [Vector.getElem?_eq_none h]

/-! ## Fetch and cycle -/

/-- A fetch in range reads the two bytes at `PC`. -/
theorem State.fetch_in_range {s : State} (h : s.pc.toNat + 1 < 4096) :
    s.fetch = .ok (wordOfBytes (s.mem.read s.pc.toNat) (s.mem.read (s.pc.toNat + 1))) := by
  unfold State.fetch
  rw [checkBlock_in_range (by omega)]

/-- A fetch out of range reports the first address that is: `PC`, or 0x1000 when `PC` is 0xFFF. -/
theorem State.fetch_out_of_range {s : State} (h : 4096 ≤ s.pc.toNat + 1) :
    s.fetch = .error (max s.pc.toNat 4096) := by
  unfold State.fetch
  rw [checkBlock_out_of_range (by omega) (by omega)]

theorem State.cycle_in_range {s : State} (h : s.pc.toNat + 1 < 4096) {op : Word}
    (hop : op = wordOfBytes (s.mem.read s.pc.toNat) (s.mem.read (s.pc.toNat + 1))) :
    s.cycle = (s.advance op).execute s.pc op (decodeWord Config.looseDecode op) := by
  unfold State.cycle
  rw [State.fetch_in_range h, hop]

theorem State.cycle_out_of_range {s : State} (h : 4096 ≤ s.pc.toNat + 1) :
    s.cycle = s.raiseFetch (max s.pc.toNat 4096) := by
  unfold State.cycle
  rw [State.fetch_out_of_range h]

/-! ## Step -/

/-- A running machine takes its next action. -/
theorem step_running {s : State} (h : s.Running) : step s = s.popEvent.act s.nextEvent := by
  unfold step
  simp [h.1, h.2]

/-- A machine that takes a step was running. -/
theorem step_next_running {s t : State} (h : step s = .next t) : s.Running ∧ s.popEvent.act s.nextEvent = .next t := by
  unfold step at h
  split at h
  · cases h
  · split at h
    · cases h
    · rename_i h1 h2
      exact ⟨⟨by simpa using h1, by simpa using h2⟩, h⟩

/-! ## Runs -/

theorem core_run_zero (s : State) : Sys2Proof.core.run 0 s = .next s := rfl

theorem run_succ (M : Host.Core) (n : Nat) (s t : M.State) (h : M.step s = .next t) : M.run (n + 1) s = M.run n t := by
  rw [Host.Core.run, h]

/-- A run whose first step answers goes on from there. -/
theorem core_run_succ {s t : State} (n : Nat) (h : step s = .next t) :
    Sys2Proof.core.run (n + 1) s = Sys2Proof.core.run n t := run_succ Sys2Proof.core n s t h

end Sys2Proof.Machine
end

