-- ==== Sys2Proof/Laws/PerInstr.lean ====
section
/-! SUPPORT. Statements made once per constructor of `Instr`. Family `TableRow`: an instruction's encoding has the fixed
bits that its row of spec/opcode_table.json gives it. -/

namespace Sys2Proof.Laws

/-- A row's mask and match, copied from spec/opcode_table.json. -/
def tableRow : Instr → Word × Word
  | .cls => (0xFFFF, 0x00E0)
  | .ret => (0xFFFF, 0x00EE)
  | .jp _ => (0xF000, 0x1000)
  | .call _ => (0xF000, 0x2000)
  | .seImm _ _ => (0xF000, 0x3000)
  | .sneImm _ _ => (0xF000, 0x4000)
  | .seReg _ _ => (0xF00F, 0x5000)
  | .ldImm _ _ => (0xF000, 0x6000)
  | .addImm _ _ => (0xF000, 0x7000)
  | .ldReg _ _ => (0xF00F, 0x8000)
  | .orReg _ _ => (0xF00F, 0x8001)
  | .andReg _ _ => (0xF00F, 0x8002)
  | .xorReg _ _ => (0xF00F, 0x8003)
  | .addReg _ _ => (0xF00F, 0x8004)
  | .sub _ _ => (0xF00F, 0x8005)
  | .shr _ _ => (0xF00F, 0x8006)
  | .subn _ _ => (0xF00F, 0x8007)
  | .shl _ _ => (0xF00F, 0x800E)
  | .sneReg _ _ => (0xF00F, 0x9000)
  | .ldI _ => (0xF000, 0xA000)
  | .jpV0 _ => (0xF000, 0xB000)
  | .rnd _ _ => (0xF000, 0xC000)
  | .drw _ _ _ => (0xF000, 0xD000)
  | .skp _ => (0xF0FF, 0xE09E)
  | .sknp _ => (0xF0FF, 0xE0A1)
  | .ldVxDt _ => (0xF0FF, 0xF007)
  | .ldVxK _ => (0xF0FF, 0xF00A)
  | .ldDtVx _ => (0xF0FF, 0xF015)
  | .ldStVx _ => (0xF0FF, 0xF018)
  | .addIVx _ => (0xF0FF, 0xF01E)
  | .ldFVx _ => (0xF0FF, 0xF029)
  | .ldBVx _ => (0xF0FF, 0xF033)
  | .ldMemVx _ => (0xF0FF, 0xF055)
  | .ldVxMem _ => (0xF0FF, 0xF065)

/-- The bits of the encoding under the row's mask are the row's match. -/
def TableRow.Statement (i : Instr) : Prop := encode i &&& (tableRow i).1 = (tableRow i).2

theorem and_ones_nibble (b : BitVec 4) : b &&& 15#4 = b := BitVec.and_allOnes

theorem and_ones_byte (b : Byte) : b &&& 255#8 = b := BitVec.and_allOnes

theorem wordADDR_masked (g : BitVec 4) (nnn : Addr) : wordADDR g nnn &&& 0xF000 = wordADDR g 0 := by
  show (g ++ nnn) &&& ((0xF#4) ++ (0x000#12)) = g ++ 0x000#12
  rw [BitVec.and_append]
  simp [and_ones_nibble]

theorem wordXKK_masked (g : BitVec 4) (x : RegId) (kk : Byte) : wordXKK g x kk &&& 0xF000 = wordXKK g 0 0 := by
  show (g ++ x ++ kk) &&& ((0xF#4) ++ (0x0#4) ++ (0x00#8)) = g ++ 0x0#4 ++ 0x00#8
  rw [BitVec.and_append, BitVec.and_append]
  simp [and_ones_nibble]

theorem wordXOP_masked (g : BitVec 4) (x : RegId) (kk : Byte) : wordXKK g x kk &&& 0xF0FF = wordXKK g 0 kk := by
  show (g ++ x ++ kk) &&& ((0xF#4) ++ (0x0#4) ++ (0xFF#8)) = g ++ 0x0#4 ++ kk
  rw [BitVec.and_append, BitVec.and_append]
  simp [and_ones_nibble, and_ones_byte]

theorem wordXYN_masked (g : BitVec 4) (x y : RegId) (n : BitVec 4) :
    wordXYN g x y n &&& 0xF00F = wordXYN g 0 0 n := by
  show (g ++ x ++ y ++ n) &&& ((0xF#4) ++ (0x0#4) ++ (0x0#4) ++ (0xF#4)) = g ++ 0x0#4 ++ 0x0#4 ++ n
  rw [BitVec.and_append, BitVec.and_append, BitVec.and_append]
  simp [and_ones_nibble]

theorem wordDRW_masked (g : BitVec 4) (x y : RegId) (n : BitVec 4) :
    wordXYN g x y n &&& 0xF000 = wordXYN g 0 0 0 := by
  show (g ++ x ++ y ++ n) &&& ((0xF#4) ++ (0x0#4) ++ (0x0#4) ++ (0x0#4)) = g ++ 0x0#4 ++ 0x0#4 ++ 0x0#4
  rw [BitVec.and_append, BitVec.and_append, BitVec.and_append]
  simp [and_ones_nibble]

theorem TableRow.cls : TableRow.Statement .cls := rfl
theorem TableRow.ret : TableRow.Statement .ret := rfl
theorem TableRow.jp (nnn : Addr) : TableRow.Statement (.jp nnn) := (wordADDR_masked _ _).trans rfl
theorem TableRow.call (nnn : Addr) : TableRow.Statement (.call nnn) := (wordADDR_masked _ _).trans rfl
theorem TableRow.seImm (x : RegId) (kk : Byte) : TableRow.Statement (.seImm x kk) := (wordXKK_masked _ _ _).trans rfl
theorem TableRow.sneImm (x : RegId) (kk : Byte) : TableRow.Statement (.sneImm x kk) := (wordXKK_masked _ _ _).trans rfl
theorem TableRow.seReg (x : RegId) (y : RegId) : TableRow.Statement (.seReg x y) := (wordXYN_masked _ _ _ _).trans rfl
theorem TableRow.ldImm (x : RegId) (kk : Byte) : TableRow.Statement (.ldImm x kk) := (wordXKK_masked _ _ _).trans rfl
theorem TableRow.addImm (x : RegId) (kk : Byte) : TableRow.Statement (.addImm x kk) := (wordXKK_masked _ _ _).trans rfl
theorem TableRow.ldReg (x : RegId) (y : RegId) : TableRow.Statement (.ldReg x y) := (wordXYN_masked _ _ _ _).trans rfl
theorem TableRow.orReg (x : RegId) (y : RegId) : TableRow.Statement (.orReg x y) := (wordXYN_masked _ _ _ _).trans rfl
theorem TableRow.andReg (x : RegId) (y : RegId) : TableRow.Statement (.andReg x y) := (wordXYN_masked _ _ _ _).trans rfl
theorem TableRow.xorReg (x : RegId) (y : RegId) : TableRow.Statement (.xorReg x y) := (wordXYN_masked _ _ _ _).trans rfl
theorem TableRow.addReg (x : RegId) (y : RegId) : TableRow.Statement (.addReg x y) := (wordXYN_masked _ _ _ _).trans rfl
theorem TableRow.sub (x : RegId) (y : RegId) : TableRow.Statement (.sub x y) := (wordXYN_masked _ _ _ _).trans rfl
theorem TableRow.shr (x : RegId) (y : RegId) : TableRow.Statement (.shr x y) := (wordXYN_masked _ _ _ _).trans rfl
theorem TableRow.subn (x : RegId) (y : RegId) : TableRow.Statement (.subn x y) := (wordXYN_masked _ _ _ _).trans rfl
theorem TableRow.shl (x : RegId) (y : RegId) : TableRow.Statement (.shl x y) := (wordXYN_masked _ _ _ _).trans rfl
theorem TableRow.sneReg (x : RegId) (y : RegId) : TableRow.Statement (.sneReg x y) := (wordXYN_masked _ _ _ _).trans rfl
theorem TableRow.ldI (nnn : Addr) : TableRow.Statement (.ldI nnn) := (wordADDR_masked _ _).trans rfl
theorem TableRow.jpV0 (nnn : Addr) : TableRow.Statement (.jpV0 nnn) := (wordADDR_masked _ _).trans rfl
theorem TableRow.rnd (x : RegId) (kk : Byte) : TableRow.Statement (.rnd x kk) := (wordXKK_masked _ _ _).trans rfl
theorem TableRow.drw (x : RegId) (y : RegId) (n : Nat) : TableRow.Statement (.drw x y n) := (wordDRW_masked _ _ _ _).trans rfl
theorem TableRow.skp (x : RegId) : TableRow.Statement (.skp x) := (wordXOP_masked _ _ _).trans rfl
theorem TableRow.sknp (x : RegId) : TableRow.Statement (.sknp x) := (wordXOP_masked _ _ _).trans rfl
theorem TableRow.ldVxDt (x : RegId) : TableRow.Statement (.ldVxDt x) := (wordXOP_masked _ _ _).trans rfl
theorem TableRow.ldVxK (x : RegId) : TableRow.Statement (.ldVxK x) := (wordXOP_masked _ _ _).trans rfl
theorem TableRow.ldDtVx (x : RegId) : TableRow.Statement (.ldDtVx x) := (wordXOP_masked _ _ _).trans rfl
theorem TableRow.ldStVx (x : RegId) : TableRow.Statement (.ldStVx x) := (wordXOP_masked _ _ _).trans rfl
theorem TableRow.addIVx (x : RegId) : TableRow.Statement (.addIVx x) := (wordXOP_masked _ _ _).trans rfl
theorem TableRow.ldFVx (x : RegId) : TableRow.Statement (.ldFVx x) := (wordXOP_masked _ _ _).trans rfl
theorem TableRow.ldBVx (x : RegId) : TableRow.Statement (.ldBVx x) := (wordXOP_masked _ _ _).trans rfl
theorem TableRow.ldMemVx (x : RegId) : TableRow.Statement (.ldMemVx x) := (wordXOP_masked _ _ _).trans rfl
theorem TableRow.ldVxMem (x : RegId) : TableRow.Statement (.ldVxMem x) := (wordXOP_masked _ _ _).trans rfl

end Sys2Proof.Laws
end

