-- ==== Sys2Proof/Tests/Slice0.lean ====
section
/-! SUPPORT. Tests: words written out from the encodings of spec/30_encoding.md R96, single steps from the vectors of
spec/95_test_vectors.md (each names its vector), ill-formed terms, and for every statement with hypotheses a state and
operands that meet them. -/

namespace Sys2Proof.Tests

open Sys2Proof Sys2Proof.Machine

/-! ## Well-formedness -/

theorem test_wf_refuses_tall_sprite : (Instr.drw 0 0 16).wellFormed = false := by decide
theorem test_wf_accepts_tallest_sprite : (Instr.drw 0 0 15).wellFormed = true := by decide

/-! ## Decoding, one word per constructor, bits from R96 -/

theorem test_decode_cls : decodeWord false 0x00E0 = some .cls := by decide
theorem test_decode_ret : decodeWord false 0x00EE = some .ret := by decide
theorem test_decode_jp : decodeWord false 0x1ABC = some (.jp 0xABC) := by decide
theorem test_decode_call : decodeWord false 0x2345 = some (.call 0x345) := by decide
theorem test_decode_seImm : decodeWord false 0x3342 = some (.seImm 3 0x42) := by decide
theorem test_decode_sneImm : decodeWord false 0x4342 = some (.sneImm 3 0x42) := by decide
theorem test_decode_seReg : decodeWord false 0x5120 = some (.seReg 1 2) := by decide
theorem test_decode_ldImm : decodeWord false 0x60FF = some (.ldImm 0 0xFF) := by decide
theorem test_decode_addImm : decodeWord false 0x7A02 = some (.addImm 0xA 0x02) := by decide
theorem test_decode_ldReg : decodeWord false 0x8120 = some (.ldReg 1 2) := by decide
theorem test_decode_orReg : decodeWord false 0x8341 = some (.orReg 3 4) := by decide
theorem test_decode_andReg : decodeWord false 0x8562 = some (.andReg 5 6) := by decide
theorem test_decode_xorReg : decodeWord false 0x8783 = some (.xorReg 7 8) := by decide
theorem test_decode_addReg : decodeWord false 0x89A4 = some (.addReg 9 0xA) := by decide
theorem test_decode_sub : decodeWord false 0x8BC5 = some (.sub 0xB 0xC) := by decide
theorem test_decode_shr : decodeWord false 0x8DE6 = some (.shr 0xD 0xE) := by decide
theorem test_decode_subn : decodeWord false 0x8F07 = some (.subn 0xF 0) := by decide
theorem test_decode_shl : decodeWord false 0x812E = some (.shl 1 2) := by decide
theorem test_decode_sneReg : decodeWord false 0x9120 = some (.sneReg 1 2) := by decide
theorem test_decode_ldI : decodeWord false 0xA123 = some (.ldI 0x123) := by decide
theorem test_decode_jpV0 : decodeWord false 0xB300 = some (.jpV0 0x300) := by decide
theorem test_decode_rnd : decodeWord false 0xC00F = some (.rnd 0 0x0F) := by decide
theorem test_decode_drw : decodeWord false 0xD015 = some (.drw 0 1 5) := by decide
theorem test_decode_skp : decodeWord false 0xE59E = some (.skp 5) := by decide
theorem test_decode_sknp : decodeWord false 0xE5A1 = some (.sknp 5) := by decide
theorem test_decode_ldVxDt : decodeWord false 0xF307 = some (.ldVxDt 3) := by decide
theorem test_decode_ldVxK : decodeWord false 0xF50A = some (.ldVxK 5) := by decide
theorem test_decode_ldDtVx : decodeWord false 0xF215 = some (.ldDtVx 2) := by decide
theorem test_decode_ldStVx : decodeWord false 0xF218 = some (.ldStVx 2) := by decide
theorem test_decode_addIVx : decodeWord false 0xF11E = some (.addIVx 1) := by decide
theorem test_decode_ldFVx : decodeWord false 0xFA29 = some (.ldFVx 0xA) := by decide
theorem test_decode_ldBVx : decodeWord false 0xF033 = some (.ldBVx 0) := by decide
theorem test_decode_ldMemVx : decodeWord false 0xF355 = some (.ldMemVx 3) := by decide
theorem test_decode_ldVxMem : decodeWord false 0xF265 = some (.ldVxMem 2) := by decide

/-- Vectors T-DEC-1 to T-DEC-6, T-DEC-10: words that are no instruction, under both settings. -/
theorem test_decode_unhandled : ∀ loose : Bool,
    [(0x0123 : Word), 0x0000, 0x8008, 0x800F, 0xE000, 0xF0FF, 0x00E1].map (decodeWord loose) = List.replicate 7 none := by
  decide

/-- Vectors T-DEC-7 to T-DEC-9: words whose decoding depends on the parameter. -/
theorem test_decode_loose :
    [(0x5121 : Word), 0x9121, 0x01E0].map (decodeWord false) = [none, none, none] ∧
      [(0x5121 : Word), 0x9121, 0x01E0].map (decodeWord true) = [some (.seReg 1 2), some (.sneReg 1 2), some .cls] := by
  decide

theorem test_decode_bytes_big_endian : decodeBytes false [0x60, 0x2A, 0xFF] = .ok (.ldImm 0 0x2A, [0xFF]) := by decide
theorem test_decode_bytes_truncated : decodeBytes false [0x60] = .error .truncated := by decide
theorem test_table_word : decodeTableWord 16 0xD125 = some (.drw 1 2 5) := by decide
theorem test_encode_words : [encode (.jp 0xABC), encode (.seImm 3 0x42), encode (.subn 0xA 0xB), encode (.drw 0 1 5)] =
    [0x1ABC, 0x3342, 0x8AB7, 0xD015] := by decide

/-! ## Single steps -/

/-- The reset state with `op` at 0x200 (the start of every vector of 95_test_vectors.md). -/
def start (op : Word) : State := State.reset.withFetchWord 16 op.toNat

/-- Registers set one after another. -/
def regs (s : State) (l : List (RegId × Byte)) : State := l.foldl (fun t p => t.setReg p.1 p.2) s

/-- The next state of a step, if there is one. -/
def after (s : State) : Option State :=
  match step s with
  | .next t => some t
  | .fault _ => none
  | .refused _ => none

/-- T-CYC-1 -/
theorem test_cycle_fetches_big_endian :
    (after (start 0x602A)).map (fun t => (t.opcode, t.pc, t.reg 0)) = some (0x602A, 0x202, 0x2A) := by decide
/-- T-CYC-3 -/
theorem test_fetch_fault_at_top : (after { start 0 with pc := 0xFFF }).map (fun t => (t.fault, t.pc, t.opcode)) =
    some (some ⟨.memoryOutOfRange, 0xFFF, none, some 0x1000⟩, 0xFFF, 0) := by decide
/-- T-DEC-1 -/
theorem test_unhandled_is_reported : (after (start 0x0123)).map (fun t => (t.output, t.pc, t.halted)) =
    some ([.report 0x200 0x0123], 0x202, false) := by decide
/-- T-CYC-6 -/
theorem test_halted_takes_no_step : after { start 0x602A with halted := true } = none := by decide
/-- T-CF-6 -/
theorem test_ret : (after { start 0x00EE with sp := 1, stack := Vector.replicate 16 0x20A }).map
    (fun t => (t.sp, t.pc, t.stack[0])) = some (0, 0x20A, 0x20A) := by decide
/-- T-CF-7, E5 -/
theorem test_ret_underflow : (after (start 0x00EE)).map (fun t => (t.halted, t.fault, t.pc, t.sp)) =
    some (true, some ⟨.stackUnderflow, 0x200, some 0x00EE, none⟩, 0x202, 0) := by decide
/-- T-CF-1 -/
theorem test_jp : (after (start 0x1ABC)).map (·.pc) = some 0xABC := by decide
/-- T-CF-4 -/
theorem test_call : (after { start 0x2345 with sp := 15 }).map (fun t => (t.stack[15], t.sp, t.pc)) =
    some (0x202, 16, 0x345) := by decide
/-- T-CF-5 -/
theorem test_call_overflow : (after { start 0x2345 with sp := 16 }).map (fun t => (t.fault, t.pc, t.sp)) =
    some (some ⟨.stackOverflow, 0x200, some 0x2345, none⟩, 0x202, 16) := by decide
/-- T-CF-8, T-CF-9 -/
theorem test_seImm : [0x3342, 0x3343].map (fun op => (after (regs (start op) [(3, 0x42)])).map (·.pc)) =
    [some 0x204, some 0x202] := by decide
/-- T-CF-10, T-CF-11 -/
theorem test_sneImm : [0x4342, 0x4343].map (fun op => (after (regs (start op) [(3, 0x42)])).map (·.pc)) =
    [some 0x202, some 0x204] := by decide
/-- T-CF-12, T-CF-13 -/
theorem test_seReg : [7, 8].map (fun b => (after (regs (start 0x5120) [(1, 7), (2, b)])).map (·.pc)) =
    [some 0x204, some 0x202] := by decide
/-- T-CF-15, T-CF-16 -/
theorem test_sneReg : [0x9120, 0x9330].map (fun op => (after (regs (start op) [(1, 7), (2, 8)])).map (·.pc)) =
    [some 0x204, some 0x202] := by decide
/-- T-CF-18 -/
theorem test_jpV0 : (after (regs (start 0xBFFF) [(0, 0xFF)])).map (·.pc) = some 0x10FE := by decide
/-- T-ALU-2 -/
theorem test_ldImm : (after (regs (start 0x6F01) [(15, 0x55)])).map (·.reg 15) = some 0x01 := by decide
/-- T-ALU-4 -/
theorem test_addImm : (after (regs (start 0x70FF) [(0, 0x10), (15, 0xAA)])).map (fun t => (t.reg 0, t.reg 15)) =
    some (0x0F, 0xAA) := by decide
/-- T-ALU-6 -/
theorem test_ldReg : (after (regs (start 0x8120) [(2, 0x33)])).map (·.reg 1) = some 0x33 := by decide
/-- T-ALU-7 -/
theorem test_orReg : (after (regs (start 0x8121) [(1, 0x0F), (2, 0xF0), (15, 0xAA)])).map
    (fun t => (t.reg 1, t.reg 15)) = some (0xFF, 0xAA) := by decide
/-- T-ALU-8 -/
theorem test_andReg : (after (regs (start 0x8122) [(1, 0x0F), (2, 0x3C)])).map (·.reg 1) = some 0x0C := by decide
/-- T-ALU-9 -/
theorem test_xorReg : (after (regs (start 0x8123) [(1, 0x0F), (2, 0x3C)])).map (·.reg 1) = some 0x33 := by decide
/-- T-ALU-11 -/
theorem test_addReg_carry : (after (regs (start 0x8124) [(1, 0xFF), (2, 0x01)])).map
    (fun t => (t.reg 1, t.reg 15)) = some (0x00, 1) := by decide
/-- T-ALU-15 -/
theorem test_addReg_to_vf : (after (regs (start 0x8F14) [(15, 0x01), (1, 0x02)])).map (·.reg 15) = some 0 := by decide
/-- T-ALU-18 -/
theorem test_sub_borrow : (after (regs (start 0x8125) [(1, 3), (2, 5)])).map (fun t => (t.reg 1, t.reg 15)) =
    some (0xFE, 0) := by decide
/-- T-ALU-19 -/
theorem test_sub_equal : (after (regs (start 0x8125) [(1, 7), (2, 7)])).map (fun t => (t.reg 1, t.reg 15)) =
    some (0x00, 1) := by decide
/-- T-ALU-27 -/
theorem test_shr_ignores_y : (after (regs (start 0x8126) [(1, 0x04), (2, 0xFF), (15, 1)])).map
    (fun t => (t.reg 1, t.reg 15)) = some (0x02, 0) := by decide
/-- T-ALU-30 -/
theorem test_shr_vf : (after (regs (start 0x8F06) [(15, 0x02)])).map (·.reg 15) = some 0 := by decide
/-- T-ALU-21 -/
theorem test_subn : (after (regs (start 0x8127) [(1, 3), (2, 5)])).map (fun t => (t.reg 1, t.reg 15)) =
    some (0x02, 1) := by decide
/-- T-ALU-31 -/
theorem test_shl : (after (regs (start 0x810E) [(1, 0x81)])).map (fun t => (t.reg 1, t.reg 15)) =
    some (0x02, 1) := by decide
/-- T-ALU-36: any draw masked by 0. -/
theorem test_rnd : (after (start 0xC100)).map (fun t => (t.draws, t.pc)) = some (1, 0x202) := by decide
/-- T-IM-1 -/
theorem test_ldI : (after (start 0xA123)).map (·.i) = some 0x0123 := by decide
/-- T-IM-4 -/
theorem test_addIVx_wraps : (after (regs { start 0xF01E with i := 0xFFFF } [(0, 2)])).map (·.i) = some 0x0001 := by decide
/-- T-IM-6 (source E1) and T-IM-8 -/
theorem test_ldFVx : [0x0A, 0x10].map (fun b => (after (regs (start 0xF029) [(0, b)])).map (·.i)) =
    [some 0x082, some 0x0A0] := by decide
/-- T-IM-10 -/
theorem test_ldBVx : (after (regs { start 0xF033 with i := 0x300 } [(0, 254)])).map
    (fun t => (t.mem.readBlock 0x300 3, t.i)) = some ([2, 5, 4], 0x300) := by decide
/-- T-IM-15 -/
theorem test_ldBVx_out_of_range : (after (regs { start 0xF033 with i := 0xFFE } [(0, 1)])).map
    (fun t => (t.fault, t.mem)) =
    some (some ⟨.memoryOutOfRange, 0x200, some 0xF033, some 0x1000⟩, (start 0xF033).mem) := by decide
/-- E6 -/
theorem test_ldMemVx : (after (regs { start 0xF355 with i := 0x400 } [(0, 0x11), (1, 0x22), (2, 0x33), (3, 0x44), (4, 9)])).map
    (fun t => (t.mem.readBlock 0x400 5, t.i)) = some ([0x11, 0x22, 0x33, 0x44, 0], 0x400) := by decide
/-- T-IM-19 -/
theorem test_ldMemVx_out_of_range : (after { start 0xFF55 with i := 0xFF5 }).map (·.fault) =
    some (some ⟨.memoryOutOfRange, 0x200, some 0xFF55, some 0x1000⟩) := by decide
/-- T-IM-22, and a register above `x` -/
theorem test_ldVxMem : (after (regs { start 0xF165 with i := 0x050 } [(2, 7)])).map (fun t => (t.reg 0, t.reg 1, t.reg 2)) =
    some (0xF0, 0x90, 7) := by decide
/-- T-DRW-1 -/
theorem test_cls : (after { start 0x00E0 with fb := togglePixel FrameBuffer.blank 3 4 }).map (·.fb) =
    some FrameBuffer.blank := by decide
/-- T-DRW-6: `V[15]` is read before its reset; the collision. -/
theorem test_drw_collision :
    (after (regs { start 0xDF01 with i := 0x050, fb := togglePixel FrameBuffer.blank 0 3 } [(15, 3)])).map
      (fun t => ((List.range 8).map (pixel t.fb 0), t.reg 15)) =
    some ([false, false, false, false, true, true, true, false], 1) := by decide
/-- T-DRW-4: clipping at the right and bottom edges. -/
theorem test_drw_clips : (after (regs { start 0xD015 with i := 0x050 } [(0, 60), (1, 30)])).map
    (fun t => ([0, 1, 59, 60, 61, 62, 63].map (pixel t.fb 30), [0, 60, 61, 62, 63].map (pixel t.fb 31), pixel t.fb 0 60,
      t.reg 15)) =
    some ([false, false, false, true, true, true, true], [false, true, false, false, true], false, 0) := by decide
/-- T-IT-1, T-IT-2 -/
theorem test_skp : [true, false].map (fun d => (after (regs { start 0xE09E with keys := (Vector.replicate 16 false).set 3 d }
    [(0, 3)])).map (·.pc)) = [some 0x204, some 0x202] := by decide
/-- T-IT-5 -/
theorem test_skp_out_of_range : (after (regs (start 0xE09E) [(0, 0x10)])).map (fun t => (t.fault, t.pc)) =
    some (some ⟨.keyIndexOutOfRange, 0x200, some 0xE09E, some 0x10⟩, 0x202) := by decide
/-- T-IT-3, T-IT-4 -/
theorem test_sknp : [false, true].map (fun d => (after (regs { start 0xE0A1 with keys := (Vector.replicate 16 false).set 3 d }
    [(0, 3)])).map (·.pc)) = [some 0x204, some 0x202] := by decide
/-- T-IT-7 -/
theorem test_ldVxK : (after { start 0xF50A with keys := ((Vector.replicate 16 false).set 2 true).set 9 true }).map
    (fun t => (t.reg 5, t.pc)) = some (2, 0x202) := by decide
/-- T-IT-8 -/
theorem test_ldVxK_none : (after (start 0xF50A)).map (fun t => (t.reg 5, t.pc)) = some (0, 0x200) := by decide
/-- T-IT-10 -/
theorem test_ldVxDt : (after { start 0xF307 with dt := 0x3C }).map (·.reg 3) = some 0x3C := by decide
/-- T-IT-11 -/
theorem test_ldDtVx : (after (regs (start 0xF015) [(0, 7)])).map (·.dt) = some 7 := by decide
/-- T-IT-12 -/
theorem test_ldStVx : (after (regs (start 0xF018) [(0, 2)])).map (·.st) = some 2 := by decide
/-- T-IT-14, T-IT-15 -/
theorem test_tick : (after { start 0 with dt := 5, st := 1, pending := [.tick] }).map (fun t => (t.dt, t.st, t.output)) =
    some (4, 0, [.tone]) := by decide
/-- T-IT-13, T-IT-16 -/
theorem test_tick_zero : (after { start 0 with pending := [.tick] }).map (fun t => (t.dt, t.st, t.output)) =
    some (0, 0, []) := by decide
/-- T-IT-18 -/
theorem test_keyWrite : (after { start 0 with pending := [.keyWrite 4 true] }).map (fun t => (t.keys[4], t.keys[5], t.pc)) =
    some (true, false, 0x200) := by decide

/-! ## The fetch-word helper -/

theorem test_withFetchWord_changes_memory_alone :
    State.reset.withFetchWord 16 0x1ABC = { State.reset with mem := [(0x200, 0x1A), (0x201, 0xBC)] } := rfl

/-! ## Witnesses: every statement with hypotheses has a state and operands that meet them -/

theorem cycleNext_start (op : Word) : (start op).CycleNext := ⟨⟨rfl, rfl⟩, rfl⟩

theorem witness_StepRunsTheDecodedInstruction :
    (start 0x602A).CycleNext ∧ (start 0x602A).Fetchable ∧
      0x602A = wordOfBytes ((start 0x602A).mem.read 0x200) ((start 0x602A).mem.read 0x201) ∧
      decodeWord Config.looseDecode 0x602A = some (.ldImm 0 0x2A) :=
  ⟨cycleNext_start _, by unfold State.Fetchable; decide, by decide, by decide⟩

theorem witness_UnhandledWordIsReportedAndSkipped :
    (start 0x8008).CycleNext ∧ (start 0x8008).Fetchable ∧
      0x8008 = wordOfBytes ((start 0x8008).mem.read 0x200) ((start 0x8008).mem.read 0x201) ∧
      decodeWord Config.looseDecode 0x8008 = none :=
  ⟨cycleNext_start _, by unfold State.Fetchable; decide, by decide, by decide⟩

/-- `PC` at 0xFFF and at 0x1000. -/
theorem witness_FetchFaultNamesTheFirstBadAddress :
    (({ State.reset with pc := 0xFFF } : State).CycleNext ∧ ¬ ({ State.reset with pc := 0xFFF } : State).Fetchable) ∧
      ({ State.reset with pc := 0x1000 } : State).CycleNext ∧ ¬ ({ State.reset with pc := 0x1000 } : State).Fetchable :=
  ⟨⟨⟨⟨rfl, rfl⟩, rfl⟩, by unfold State.Fetchable; decide⟩, ⟨⟨rfl, rfl⟩, rfl⟩, by unfold State.Fetchable; decide⟩

/-- A halted state, and a step that halts. -/
theorem witness_OnlyAFatalFaultHalts :
    ({ State.reset with halted := true } : State).halted = true ∧
      (after (start 0x00EE)).map (·.halted) = some true := by decide

theorem witness_QuitEndsTheRunWithoutFault :
    ({ State.reset with pending := [.quit] } : State).Running ∧
      ({ State.reset with pending := [.quit] } : State).nextEvent = .quit := ⟨⟨rfl, rfl⟩, rfl⟩

/-- A fault in execution, and a fetch fault. -/
theorem witness_FaultsArePrecise : (after (start 0x00EE)).map (·.halted) = some true ∧
    (after { State.reset with pc := 0xFFF }).map (·.halted) = some true := by decide

theorem witness_EachInstructionFaultsExactlyAsTabled :
    ∃ t u, exec .ret State.reset = .next t ∧ faultOf State.reset .ret = some (.stackUnderflow, none) ∧
      exec .cls State.reset = .next u ∧ faultOf State.reset .cls = none := ⟨_, _, rfl, by decide, rfl, rfl⟩

theorem witness_DecodeInvertsEncode : (Instr.drw 1 2 15).wellFormed = true ∧ Instr.cls.wellFormed = true := by decide

theorem witness_StrictDecodeHasOneWordPerInstruction : decodeWord false 0xD01F = some (.drw 0 1 15) := by decide

theorem witness_LooseDecodeDiffersInThreeArms :
    fieldG 0x01E0 = 0x0 ∧ fieldG 0x5121 = 0x5 ∧ fieldG 0x9121 = 0x9 ∧ fieldG 0x8124 ∉ [0x0, 0x5, 0x9] := by decide

theorem witness_invariants :
    State.reset.mem.wf = true ∧ State.reset.PcBounded ∧ State.reset.HaltRecorded ∧ (after (start 0x1ABC)).isSome = true :=
  ⟨rfl, ⟨by decide, fun _ h => absurd h (Nat.not_lt_zero _)⟩, rfl, by decide⟩

/-- Images of 3584 and 3585 bytes. -/
theorem witness_InitLoadsFontAndImage :
    (List.replicate 3584 (0 : Byte)).length ≤ 3584 ∧ 3584 < (List.replicate 3585 (0 : Byte)).length := by
  rw [List.length_replicate, List.length_replicate]
  omega

theorem witness_CallPushesTheReturnAddress :
    ({ State.reset with sp := 15 } : State).sp.val < 16 ∧ ({ State.reset with sp := 16 } : State).sp.val = 16 := by decide

theorem witness_ReturnPopsTheTopEntry :
    ({ State.reset with sp := 16 } : State).sp.val ≠ 0 ∧ State.reset.sp.val = 0 := by decide

theorem witness_ReturnResumesAfterTheCall :
    ∃ t, exec (.call 0x300) { State.reset with sp := 15 } = .next t ∧
      ({ State.reset with sp := 15 } : State).sp.val < 16 ∧ t.stack = t.stack ∧ t.sp = t.sp :=
  ⟨_, rfl, by decide, rfl, rfl⟩

theorem witness_SumAndDifferenceAreExactWithTheirFlag :
    ∃ t u, (14 : RegId) ≠ 15 ∧ exec (.addReg 14 15) State.reset = .next t ∧ exec (.sub 14 15) State.reset = .next u :=
  ⟨_, _, by decide, rfl, rfl⟩

theorem witness_VfIsZeroOrOneAfterAFlagInstruction :
    ∃ t, Instr.addReg 15 1 ∈ [Instr.addReg 15 1, .sub 15 1, .subn 15 1, .shr 15 1, .shl 15 1, .drw 15 1 1] ∧
      exec (.addReg 15 1) State.reset = .next t ∧ State.reset.halted = false ∧ t.halted = false :=
  ⟨_, by decide, rfl, rfl, rfl⟩

/-- `I` at 0xFFD, 0xFFE and 0x1000. -/
theorem witness_StoreBcdWritesThreeDigits :
    State.reset.mem.wf = true ∧ ({ State.reset with i := 0xFFD } : State).i.toNat + 2 < 4096 ∧
      4096 ≤ ({ State.reset with i := 0xFFE } : State).i.toNat + 2 ∧
      4096 ≤ ({ State.reset with i := 0x1000 } : State).i.toNat + 2 := by decide

/-- `I` at 0xFF0, 0xFF1 and 0xFFFF with `x = 15`: both block statements. -/
theorem witness_RegisterBlocks :
    State.reset.mem.wf = true ∧ ({ State.reset with i := 0xFF0 } : State).i.toNat + (15 : RegId).toNat < 4096 ∧
      4096 ≤ ({ State.reset with i := 0xFF1 } : State).i.toNat + (15 : RegId).toNat ∧
      4096 ≤ ({ State.reset with i := 0xFFFF } : State).i.toNat + (15 : RegId).toNat := by decide

theorem witness_LoadAfterDumpRestoresTheRegisters :
    ∃ t, State.reset.mem.wf = true ∧ State.reset.i.toNat + (15 : RegId).toNat < 4096 ∧
      exec (.ldMemVx 15) State.reset = .next t ∧ t.i = State.reset.i ∧ t.mem = t.mem :=
  ⟨_, rfl, by decide, rfl, rfl, rfl⟩

theorem witness_NextFetchSeesTheStoredBytes :
    ∃ t, State.reset.mem.wf = true ∧ 1 ≤ (1 : RegId).toNat ∧
      ({ State.reset with i := 0x200 } : State).i = ({ State.reset with i := 0x200 } : State).pc ∧
      ({ State.reset with i := 0x200 } : State).i.toNat + (1 : RegId).toNat < 4096 ∧
      exec (.ldMemVx 1) { State.reset with i := 0x200 } = .next t :=
  ⟨_, rfl, by decide, rfl, by decide, rfl⟩

/-- `n = 0` with `I` at 0xFFFF; a sprite that ends at 4096; one that ends past it. -/
theorem witness_DrawSpriteXorsPixelsAndFlagsCollision :
    ((0 : Nat) = 0 ∨ (0xFFFF : Word).toNat + 0 ≤ 4096) ∧ ((1 : Nat) = 0 ∨ (0xFFF : Word).toNat + 1 ≤ 4096) ∧
      ((2 : Nat) ≠ 0 ∧ 4096 < (0xFFF : Word).toNat + 2) := by decide

/-- Two draws of the top row of a glyph. -/
theorem witness_DrawsAgain :
    ∃ t, DrawsAgain 0 1 1 { State.reset with i := 0x050 } t t :=
  ⟨_, .inr (by decide), rfl, rfl, rfl, rfl, rfl, fun _ _ => rfl⟩

/-- Two draws of the top row of a glyph on a blank screen (worked example E3): the first reports no collision. -/
theorem witness_SecondDrawFlagsAPixelAfterADrawWithoutCollision :
    ∃ t, DrawsAgain 0 1 1 { State.reset with i := 0x050 } t t ∧ t.reg 15 = 0 :=
  ⟨_, ⟨.inr (by decide), rfl, rfl, rfl, rfl, rfl, fun _ _ => rfl⟩, by decide⟩

/-- Key indexes 15 and 16. -/
theorem witness_KeySkipsTestTheSlot :
    ((State.reset.setReg 0 15).reg 0).toNat < 16 ∧ 16 ≤ ((State.reset.setReg 0 16).reg 0).toNat := by decide

/-- Key 15 alone down, and no key down. -/
theorem witness_WaitForKeyTakesTheLowestPressedKey :
    (((Vector.replicate 16 false).set 15 true)[15]? = some true ∧
      ∀ j, j < 15 → ((Vector.replicate 16 false).set 15 true)[j]? = some false) ∧
      ∀ k, k < 16 → State.reset.keys[k]? = some false := by decide

theorem witness_TickDecrementsNonzeroTimers :
    ({ State.reset with pending := [.tick] } : State).Running ∧
      ({ State.reset with pending := [.tick] } : State).nextEvent = .tick := ⟨⟨rfl, rfl⟩, rfl⟩

theorem witness_SoundTimerGivesExactlyItsCountOfTones :
    ({ State.reset with st := 2, pending := [.tick, .tick, .tick, .cycle] } : State).Running ∧
      ({ State.reset with st := 2, pending := [.tick, .tick, .tick, .cycle] } : State).pending =
        List.replicate 3 .tick ++ [.cycle] ∧ (2 : Byte).toNat ≤ 3 := ⟨⟨rfl, rfl⟩, rfl, by decide⟩

theorem witness_KeyWriteSetsOneSlot :
    ({ State.reset with pending := [.keyWrite 15 true] } : State).Running ∧
      ({ State.reset with pending := [.keyWrite 15 true] } : State).nextEvent = .keyWrite 15 true := ⟨⟨rfl, rfl⟩, rfl⟩

theorem witness_FrameReadPutsOutTheWholeGrid :
    ({ State.reset with pending := [.frameRead] } : State).Running ∧
      ({ State.reset with pending := [.frameRead] } : State).nextEvent = .frameRead := ⟨⟨rfl, rfl⟩, rfl⟩

theorem witness_OtherAgentsLeaveTheEngineAlone :
    ({ State.reset with pending := [.tick] } : State).nextEvent ≠ .cycle ∧
      (after { State.reset with pending := [.tick] }).isSome = true := by decide

theorem witness_OnlyKeyWritesChangeTheKeys :
    (after (start 0xF00A)).isSome = true ∧ ∀ k v, (start 0xF00A).nextEvent ≠ .keyWrite k v :=
  ⟨by decide, fun _ _ h => by cases h⟩

theorem witness_OnlyNamedInstructionsWriteGeneralRegisters :
    ∃ t, exec (.ldImm 3 7) State.reset = .next t ∧ ¬ mayWriteReg (.ldImm 3 7) 4 :=
  ⟨_, rfl, by unfold mayWriteReg; decide⟩

theorem witness_OnlyNamedInstructionsWriteOtherState :
    ∃ t, exec (.ldImm 3 7) State.reset = .next t ∧ (∀ x, Instr.ldImm 3 7 ≠ .ldDtVx x) ∧
      ∀ x y n, Instr.ldImm 3 7 ≠ .cls ∧ Instr.ldImm 3 7 ≠ .drw x y n :=
  ⟨_, rfl, fun _ h => (by cases h), fun _ _ _ => ⟨fun h => (by cases h), fun h => (by cases h)⟩⟩

theorem witness_EngineNeverReadsTheSoundTimer :
    ∃ t u, exec (.ldStVx 0) State.reset = .next t ∧ exec .cls State.reset = .next u ∧
      ∀ x, Instr.cls ≠ .ldStVx x :=
  ⟨_, _, rfl, rfl, fun _ h => (by cases h)⟩

end Sys2Proof.Tests
end

/-! PROOFS for spec/10_state.md: what an instruction and a step can do, said once, and the statements about the state. -/

namespace Sys2Proof.Machine

/-! ## What an instruction does: one fault, or one completed state -/

/-- The stack after a push that has room (R132). -/
def State.pushed (s : State) : State :=
  { s with stack := s.stack.setIfInBounds s.sp.val s.pc, sp := s.sp + 1 }

/-- The state after a pop of a stack that holds an entry (R130). -/
def State.popped (s : State) : State :=
  { s with sp := s.sp - 1, pc := s.stack[s.sp.val - 1] }

/-- Where a skip leaves `PC` (R138). -/
def State.skipTarget (s : State) (c : Bool) : Word := if c then s.pc + 2 else s.pc

/-- Wait-for-key as one update of the register file and `PC` (R263). -/
def State.waitKey (s : State) (x : RegId) : State :=
  { s with
    v := s.lowestKey.elim s.v fun k => s.v.set x.toNat (BitVec.ofNat 8 k) x.isLt
    pc := s.lowestKey.elim (s.pc - 2) fun _ => s.pc }

/-- The state in which an instruction completes when it raises no fault. `exec_eq` ties it to `exec`. -/
def State.completed (s : State) : Instr → State
  | .cls => s.setFb FrameBuffer.blank
  | .ret => s.popped
  | .jp nnn => s.setPc (zext16 nnn)
  | .call nnn => s.pushed.setPc (zext16 nnn)
  | .seImm x kk => s.setPc (s.skipTarget (s.reg x == kk))
  | .sneImm x kk => s.setPc (s.skipTarget (s.reg x != kk))
  | .seReg x y => s.setPc (s.skipTarget (s.reg x == s.reg y))
  | .sneReg x y => s.setPc (s.skipTarget (s.reg x != s.reg y))
  | .ldImm x kk => s.setReg x kk
  | .addImm x kk => s.setReg x (s.reg x + kk)
  | .ldReg x y => s.setReg x (s.reg y)
  | .orReg x y => s.setReg x (s.reg x ||| s.reg y)
  | .andReg x y => s.setReg x (s.reg x &&& s.reg y)
  | .xorReg x y => s.setReg x (s.reg x ^^^ s.reg y)
  | .addReg x y => s.setResultFlag x (s.reg x + s.reg y) (carryFlag (s.reg x) (s.reg y))
  | .sub x y => s.setResultFlag x (s.reg x - s.reg y) (noBorrowFlag (s.reg x) (s.reg y))
  | .shr x _ => s.setResultFlag x (s.reg x >>> 1) (shiftedOutRight (s.reg x))
  | .subn x y => s.setResultFlag x (s.reg y - s.reg x) (noBorrowFlag (s.reg y) (s.reg x))
  | .shl x _ => s.setResultFlag x (s.reg x <<< 1) (shiftedOutLeft (s.reg x))
  | .ldI nnn => s.setIndex (zext16 nnn)
  | .jpV0 nnn => s.setPc (s.targetV0 nnn)
  | .rnd x kk => s.drawn.setReg x (s.rand8 &&& kk)
  | .drw x y n => s.drawSprite x y n
  | .skp x => s.setPc (s.skipTarget (s.keyAt (s.reg x).toNat == some true))
  | .sknp x => s.setPc (s.skipTarget (s.keyAt (s.reg x).toNat == some false))
  | .ldVxDt x => s.setReg x s.dt
  | .ldVxK x => s.waitKey x
  | .ldDtVx x => s.setDt (s.reg x)
  | .ldStVx x => s.setSt (s.reg x)
  | .addIVx x => s.setIndex (s.i + (s.reg x).setWidth 16)
  | .ldFVx x => s.setIndex (glyphAddr (s.reg x))
  | .ldBVx x => s.storeAtIndex (bcdDigits (s.reg x))
  | .ldMemVx x => s.storeAtIndex (s.regsUpTo x)
  | .ldVxMem x => s.loadRegs x

/-- Raise the fault if there is one, else go on in `t`. -/
def State.faultOr (s t : State) : Option (FaultCode × Option Nat) → Result
  | some (code, info) => s.raise code info
  | none => .next t

@[simp] theorem State.faultOr_none (s t : State) : s.faultOr t none = .next t := rfl

@[simp] theorem State.faultOr_some (s t : State) (code : FaultCode) (info : Option Nat) :
    s.faultOr t (some (code, info)) = s.raise code info := rfl

theorem State.guardBlock_eq_faultOr (s t : State) (count : Nat) :
    s.guardBlock count t = s.faultOr t (s.blockFault count) := by
  unfold State.blockFault
  obtain ⟨hin, e⟩ | ⟨hout, e⟩ := s.guardBlock_cases count t
  · rw [e, if_neg (by omega), State.faultOr_none]
  · rw [e, if_pos hout, State.faultOr_some]

theorem State.skipIf_eq (s : State) (c : Bool) : s.skipIf c = s.setPc (s.skipTarget c) := by
  cases c <;> rfl

theorem State.skipOnKey_eq_faultOr (s : State) (x : RegId) (want : Bool) :
    s.skipOnKey x want =
      s.faultOr (s.setPc (s.skipTarget (s.keyAt (s.reg x).toNat == some want))) (s.keyFault x) := by
  unfold State.keyFault
  by_cases h : (s.reg x).toNat < 16
  · rw [State.skipOnKey_in_range want h, if_neg (by omega), State.faultOr_none]
    simp [State.skipIf_eq, State.keyAt, Vector.getElem?_eq_getElem h]
  · rw [State.skipOnKey_out_of_range want (by omega), if_pos (by omega), State.faultOr_some]

theorem execRet_eq_faultOr (s : State) : execRet s = s.faultOr s.popped (faultOf s .ret) := by
  unfold execRet faultOf
  by_cases h : s.sp.val = 0
  · rw [State.pop_eq_none.mpr h, if_pos h, State.faultOr_some]
  · have hsp : (s.sp - 1).val = s.sp.val - 1 := Fin.val_sub_one_of_ne_zero (Fin.val_ne_zero_iff.mp h)
    have hpop : s.pop = some s.popped :=
      State.pop_eq_some.mpr ⟨h, by unfold State.popped; congr 1; exact Fin.ext hsp⟩
    rw [hpop, if_neg h, State.faultOr_none]

theorem execCall_eq_faultOr (nnn : Addr) (s : State) :
    execCall nnn s = s.faultOr (s.pushed.setPc (zext16 nnn)) (faultOf s (.call nnn)) := by
  unfold execCall faultOf
  by_cases h : s.sp.val = 16
  · rw [State.push_eq_none.mpr h, if_pos h, State.faultOr_some]
  · have hlt : s.sp.val < 16 := by omega
    have hsp : (s.sp + 1).val = s.sp.val + 1 := Fin.val_add_one_of_lt hlt
    have hpush : s.push = some s.pushed :=
      State.push_eq_some.mpr ⟨hlt, by
        unfold State.pushed
        congr 1
        · exact Fin.ext hsp
        · simp [Vector.setIfInBounds, Array.setIfInBounds, Vector.set, hlt]⟩
    rw [hpush, if_neg h, State.faultOr_none]

theorem execLdVxK_eq (x : RegId) (s : State) : execLdVxK x s = .next (s.waitKey x) := by
  unfold execLdVxK State.waitKey
  cases s.lowestKey <;> rfl

/-- Every instruction raises the fault the table of R301 gives it, or completes. -/
theorem exec_eq (i : Instr) (s : State) : exec i s = s.faultOr (s.completed i) (faultOf s i) := by
  cases i with
  | ret => exact execRet_eq_faultOr s
  | call nnn => exact execCall_eq_faultOr nnn s
  | ldVxK x => exact execLdVxK_eq x s
  | seImm | sneImm | seReg | sneReg => exact congrArg Host.Outcome.next (s.skipIf_eq _)
  | skp | sknp => exact s.skipOnKey_eq_faultOr _ _
  | drw | ldBVx | ldMemVx | ldVxMem => exact s.guardBlock_eq_faultOr _ _
  | _ => rfl

/-- The same, read backwards from the next state. -/
theorem exec_cases {i : Instr} {s t : State} (h : exec i s = .next t) :
    (∃ code info, faultOf s i = some (code, info) ∧ t = s.halt (s.recordOf code info)) ∨
      (faultOf s i = none ∧ t = s.completed i) := by
  rw [exec_eq] at h
  cases hf : faultOf s i with
  | none =>
    rw [hf] at h
    cases h
    exact .inr ⟨rfl, rfl⟩
  | some f =>
    obtain ⟨code, info⟩ := f
    rw [hf] at h
    cases h
    exact .inl ⟨code, info, rfl, rfl⟩

/-! ## What a completed instruction leaves unchanged -/

theorem State.waitKey_reg_other (s : State) {x r : RegId} (h : r ≠ x) : (s.waitKey x).reg r = s.reg r := by
  unfold State.waitKey
  cases s.lowestKey with
  | none => rfl
  | some k => exact s.reg_setReg_other _ h

/-- No instruction writes `OPCODE`, `K`, `HALTED`, `FAULT` when it completes, nor a model's own field but `draws`. -/
theorem State.completed_frame (s : State) (i : Instr) : s.completed i = { s with
    v := (s.completed i).v
    i := (s.completed i).i
    pc := (s.completed i).pc
    sp := (s.completed i).sp
    stack := (s.completed i).stack
    mem := (s.completed i).mem
    dt := (s.completed i).dt
    st := (s.completed i).st
    fb := (s.completed i).fb
    draws := (s.completed i).draws } := by
  cases i <;> rfl

section
variable {i : Instr} (s : State)

@[simp] theorem State.completed_opcode : (s.completed i).opcode = s.opcode := by rw [State.completed_frame]
@[simp] theorem State.completed_keys : (s.completed i).keys = s.keys := by rw [State.completed_frame]
@[simp] theorem State.completed_halted : (s.completed i).halted = s.halted := by rw [State.completed_frame]
@[simp] theorem State.completed_fault : (s.completed i).fault = s.fault := by rw [State.completed_frame]
@[simp] theorem State.completed_pending : (s.completed i).pending = s.pending := by rw [State.completed_frame]
@[simp] theorem State.completed_output : (s.completed i).output = s.output := by rw [State.completed_frame]
@[simp] theorem State.completed_ended : (s.completed i).ended = s.ended := by rw [State.completed_frame]

/-- R22, R36. -/
theorem State.completed_reg {r : RegId} (hi : ¬ mayWriteReg i r) : (s.completed i).reg r = s.reg r := by
  cases i with
  | ldImm | addImm | ldReg | orReg | andReg | xorReg | rnd | ldVxDt => exact State.reg_setReg_other _ _ hi
  | addReg | sub | shr | subn | shl =>
    obtain ⟨hx, h15⟩ := not_or.mp hi
    exact (s.reg_setResultFlag ..).trans ((if_neg h15).trans (if_neg hx))
  | drw => exact State.reg_setReg_other _ _ hi
  | ldVxK => exact s.waitKey_reg_other hi
  | ldVxMem => exact (s.reg_loadRegs _ r).trans (if_neg hi)
  | _ => rfl

/-- R23. -/
theorem State.completed_i (hi : ∀ nnn x, i ≠ .ldI nnn ∧ i ≠ .addIVx x ∧ i ≠ .ldFVx x) : (s.completed i).i = s.i := by
  cases i with
  | ldI | addIVx | ldFVx => simp at hi
  | _ => rfl

/-- R24, R113. -/
theorem State.completed_pc (hi : ∀ nnn x y kk, i ≠ .ret ∧ i ≠ .jp nnn ∧ i ≠ .call nnn ∧ i ≠ .seImm x kk ∧
    i ≠ .sneImm x kk ∧ i ≠ .seReg x y ∧ i ≠ .sneReg x y ∧ i ≠ .jpV0 nnn ∧ i ≠ .skp x ∧ i ≠ .sknp x ∧ i ≠ .ldVxK x) :
    (s.completed i).pc = s.pc := by
  cases i with
  | ret | jp | call | seImm | sneImm | seReg | sneReg | jpV0 | skp | sknp | ldVxK => simp at hi
  | _ => rfl

/-- R25, R26. -/
theorem State.completed_stack (hi : ∀ nnn, i ≠ .call nnn ∧ i ≠ .ret) :
    (s.completed i).sp = s.sp ∧ (s.completed i).stack = s.stack := by
  cases i with
  | call | ret => simp at hi
  | _ => exact ⟨rfl, rfl⟩

/-- R50. -/
theorem State.completed_mem (hi : ∀ x, i ≠ .ldBVx x ∧ i ≠ .ldMemVx x) : (s.completed i).mem = s.mem := by
  cases i with
  | ldBVx | ldMemVx => simp at hi
  | _ => rfl

/-- R28. -/
theorem State.completed_dt (hi : ∀ x, i ≠ .ldDtVx x) : (s.completed i).dt = s.dt := by
  cases i with
  | ldDtVx => simp at hi
  | _ => rfl

/-- R28. -/
theorem State.completed_st (hi : ∀ x, i ≠ .ldStVx x) : (s.completed i).st = s.st := by
  cases i with
  | ldStVx => simp at hi
  | _ => rfl

/-- R29. -/
theorem State.completed_fb (hi : ∀ x y n, i ≠ .cls ∧ i ≠ .drw x y n) : (s.completed i).fb = s.fb := by
  cases i with
  | cls | drw => simp at hi
  | _ => rfl

/-- R171: only a draw advances the count of draws. -/
theorem State.completed_draws (hi : ∀ x kk, i ≠ .rnd x kk) : (s.completed i).draws = s.draws := by
  cases i with
  | rnd => simp at hi
  | _ => rfl

end

/-! ## What a step can do -/

/-- The word the next fetch reads (R51, R112). -/
def State.fetchWord (s : State) : Word := wordOfBytes (s.mem.read s.pc.toNat) (s.mem.read (s.pc.toNat + 1))

theorem State.tickDelay_eq (s : State) : s.tickDelay = { s with dt := if s.dt = 0 then s.dt else s.dt - 1 } := by
  by_cases h : s.dt = 0
  · rw [State.tickDelay, if_pos h, if_pos h]
  · rw [State.tickDelay, if_neg h, if_neg h, State.setDt]

theorem State.tickSound_eq (s : State) : s.tickSound = { s with
    st := if s.st = 0 then s.st else s.st - 1
    output := if s.st = 0 then s.output else .tone :: s.output } := by
  by_cases h : s.st = 0
  · rw [State.tickSound, if_pos h, if_pos h, if_pos h]
  · rw [State.tickSound, if_neg h, if_neg h, if_neg h, State.emit, State.setSt]

/-- One tick, as one update (R316 to R318). -/
theorem State.tick_eq (s : State) : s.tick = { s with
    dt := if s.dt = 0 then s.dt else s.dt - 1
    st := if s.st = 0 then s.st else s.st - 1
    output := if s.st = 0 then s.output else .tone :: s.output } := by
  rw [State.tick, State.tickSound_eq, State.tickDelay_eq]

/-- The ways a step answers a next state: one of the four actions of another agent, a fetch fault, an unhandled word, or
an instruction. `step_cases` ties it to `step`. -/
inductive StepCase (s t : State) : Prop
  | tick (hev : s.nextEvent = .tick) (ht : t = s.popEvent.tick)
  | keyWrite (k : Fin 16) (b : Bool) (hev : s.nextEvent = .keyWrite k b) (ht : t = s.popEvent.keyWrite k b)
  | frameRead (hev : s.nextEvent = .frameRead) (ht : t = s.popEvent.emit (.picture s.fb))
  | quit (hev : s.nextEvent = .quit) (ht : t = s.popEvent.quit)
  | fetchFault (hev : s.nextEvent = .cycle) (hpc : ¬ s.Fetchable)
      (ht : t = s.popEvent.halt ⟨.memoryOutOfRange, s.pc, none, some (max s.pc.toNat 4096)⟩)
  | unhandled (hev : s.nextEvent = .cycle) (hpc : s.Fetchable)
      (hdec : decodeWord Config.looseDecode s.fetchWord = none)
      (ht : t = (s.popEvent.advance s.fetchWord).emit (.report s.pc s.fetchWord))
  | instr (i : Instr) (hev : s.nextEvent = .cycle) (hpc : s.Fetchable)
      (hdec : decodeWord Config.looseDecode s.fetchWord = some i)
      (hexec : exec i (s.popEvent.advance s.fetchWord) = .next t)

theorem step_cases {s t : State} (h : step s = .next t) : StepCase s t := by
  obtain ⟨-, hact⟩ := step_next_running h
  cases hev : s.nextEvent with
  | tick => rw [hev] at hact; cases hact; exact .tick hev rfl
  | keyWrite k b => rw [hev] at hact; cases hact; exact .keyWrite k b hev rfl
  | frameRead => rw [hev] at hact; cases hact; exact .frameRead hev rfl
  | quit => rw [hev] at hact; cases hact; exact .quit hev rfl
  | cycle =>
    rw [hev] at hact
    change s.popEvent.cycle = .next t at hact
    by_cases hpc : s.Fetchable
    · rw [State.cycle_in_range (s := s.popEvent) (op := s.fetchWord) hpc rfl] at hact
      cases hdec : decodeWord Config.looseDecode s.fetchWord with
      | none => rw [hdec] at hact; cases hact; exact .unhandled hev hpc hdec rfl
      | some i => rw [hdec] at hact; exact .instr i hev hpc hdec hact
    · rw [State.cycle_out_of_range (s := s.popEvent) (Nat.le_of_not_lt hpc)] at hact
      cases hact
      exact .fetchFault hev hpc rfl

/-! ## Memory stays canonical -/

theorem State.blockFault_eq_none {s : State} {count : Nat} :
    s.blockFault count = none ↔ count = 0 ∨ s.i.toNat + count ≤ 4096 := by
  unfold State.blockFault
  split <;> simp <;> omega

/-- A store from `I` on that the block check lets through keeps memory canonical. -/
theorem State.storeAtIndex_mem_wf {s : State} {bytes : List Byte} (hwf : s.mem.wf = true) (hne : bytes.length ≠ 0)
    (hblock : s.blockFault bytes.length = none) : (s.storeAtIndex bytes).mem.wf = true :=
  Memory.wf_writeBlock hwf ((State.blockFault_eq_none.mp hblock).resolve_left hne)

theorem State.completed_mem_wf {i : Instr} {s : State} (hwf : s.mem.wf = true) (hf : faultOf s i = none) :
    (s.completed i).mem.wf = true := by
  cases i with
  | ldBVx x => exact State.storeAtIndex_mem_wf hwf (Nat.succ_ne_zero 2) hf
  | ldMemVx x =>
    have hlen := s.regsUpTo_length x
    exact State.storeAtIndex_mem_wf hwf (by omega) (by rw [hlen]; exact hf)
  | _ => rw [s.completed_mem (by simp)]; exact hwf

theorem exec_mem_wf {i : Instr} {s t : State} (hwf : s.mem.wf = true) (h : exec i s = .next t) :
    t.mem.wf = true := by
  obtain ⟨code, info, -, rfl⟩ | ⟨hf, rfl⟩ := exec_cases h
  · exact hwf
  · exact State.completed_mem_wf hwf hf

/-- Settles O14: of all actions only the two stores write memory, and the block check keeps them below 4096. -/
theorem stepKeepsMemoryCanonical : Obligations.StepKeepsMemoryCanonical := by
  unfold Obligations.StepKeepsMemoryCanonical
  intro s t hwf h
  cases step_cases h with
  | tick _ ht => rw [ht, State.tick_eq]; exact hwf
  | instr i _ _ _ hexec => exact exec_mem_wf (s := s.popEvent.advance s.fetchWord) hwf hexec
  | keyWrite _ _ _ ht | frameRead _ ht | quit _ ht | fetchFault _ _ ht | unhandled _ _ _ ht => rw [ht]; exact hwf

/-! ## `HALTED` and `FAULT` -/

theorem exec_haltRecorded {i : Instr} {s t : State} (hs : s.HaltRecorded) (h : exec i s = .next t) :
    t.HaltRecorded := by
  obtain ⟨code, info, -, rfl⟩ | ⟨-, rfl⟩ := exec_cases h
  · rfl
  · simpa [State.HaltRecorded] using hs

/-- Settles O16: the halt writes both fields and no other action writes either. -/
theorem stepKeepsHaltAndRecordTogether : Obligations.StepKeepsHaltAndRecordTogether := by
  unfold Obligations.StepKeepsHaltAndRecordTogether
  intro s t hs h
  cases step_cases h with
  | tick _ ht => rw [ht, State.tick_eq]; exact hs
  | instr i _ _ _ hexec => exact exec_haltRecorded (s := s.popEvent.advance s.fetchWord) hs hexec
  | fetchFault _ _ ht => rw [ht]; rfl
  | keyWrite _ _ _ ht | frameRead _ ht | quit _ ht | unhandled _ _ _ ht => rw [ht]; exact hs

/-! ## The flag register -/

theorem flagByte_eq_zero_or_one (f : Bool) : flagByte f = 0 ∨ flagByte f = 1 := by
  cases f
  · exact .inl rfl
  · exact .inr rfl

/-- With a flag written second, VF holds the flag, `x = 15` among the destinations (R173). -/
theorem State.reg_setResultFlag_vf (s : State) (x : RegId) (b : Byte) (f : Bool) :
    (s.setResultFlag x b f).reg 15 = flagByte f := State.reg_setReg_same _ _ _

theorem State.completed_vf (s : State) {x y : RegId} {n : Nat} {i : Instr}
    (hi : i ∈ [Instr.addReg x y, .sub x y, .subn x y, .shr x y, .shl x y, .drw x y n]) :
    ∃ f, (s.completed i).reg 15 = flagByte f := by
  cases i with
  | addReg | sub | subn | shr | shl => exact ⟨_, s.reg_setResultFlag_vf _ _ _⟩
  | drw => exact ⟨_, State.reg_setReg_same _ _ _⟩
  | _ => simp at hi

/-- Settles O32: the flag is the last register written, and a flag is 0 or 1. -/
theorem vfIsZeroOrOneAfterAFlagInstruction : Obligations.VfIsZeroOrOneAfterAFlagInstruction := by
  unfold Obligations.VfIsZeroOrOneAfterAFlagInstruction
  intro x y n i s t hi h _ hrun
  obtain ⟨code, info, -, rfl⟩ | ⟨-, rfl⟩ := exec_cases h
  · cases hrun
  · obtain ⟨f, hf⟩ := s.completed_vf hi
    rw [hf]
    exact flagByte_eq_zero_or_one f

/-! ## Who writes what -/

/-- Settles O53: a fault writes no register, and a completed instruction only its own. -/
theorem onlyNamedInstructionsWriteGeneralRegisters : Obligations.OnlyNamedInstructionsWriteGeneralRegisters := by
  unfold Obligations.OnlyNamedInstructionsWriteGeneralRegisters
  intro i s t h r hr
  obtain ⟨code, info, -, rfl⟩ | ⟨-, rfl⟩ := exec_cases h
  · rfl
  · exact s.completed_reg hr

/-- Settles O54: a fault writes none of these, and a completed instruction only what its rule names. -/
theorem onlyNamedInstructionsWriteOtherState : Obligations.OnlyNamedInstructionsWriteOtherState := by
  unfold Obligations.OnlyNamedInstructionsWriteOtherState
  intro i s t h
  obtain ⟨code, info, -, rfl⟩ | ⟨-, rfl⟩ := exec_cases h
  · simp
  · exact ⟨s.completed_i, s.completed_stack, s.completed_mem, s.completed_dt, s.completed_st, s.completed_fb,
      s.completed_pc, s.completed_draws, s.completed_keys, s.completed_opcode, s.completed_pending,
      s.completed_output, s.completed_ended⟩

/-! ## The sound timer is never read -/

theorem faultOf_setSt (s : State) (b : Byte) (i : Instr) : faultOf (s.setSt b) i = faultOf s i := by
  cases i <;> rfl

theorem State.completed_setSt (s : State) (b : Byte) {i : Instr} (hi : ∀ x, i ≠ .ldStVx x) :
    (s.setSt b).completed i = (s.completed i).setSt b := by
  cases i with
  | ldStVx => simp at hi
  | _ => rfl

/-- An instruction that does not set `ST` commutes with a change of `ST`, its fault among it. -/
theorem exec_setSt {i : Instr} {s t : State} (b : Byte) (hi : ∀ x, i ≠ .ldStVx x) (h : exec i s = .next t) :
    exec i (s.setSt b) = .next (t.setSt b) := by
  rw [exec_eq, faultOf_setSt, s.completed_setSt b hi]
  obtain ⟨code, info, hf, rfl⟩ | ⟨hf, rfl⟩ := exec_cases h
  · rw [hf]; rfl
  · rw [hf]; rfl

theorem exec_st {i : Instr} {s t : State} (hi : ∀ x, i ≠ .ldStVx x) (h : exec i s = .next t) : t.st = s.st := by
  obtain ⟨code, info, -, rfl⟩ | ⟨-, rfl⟩ := exec_cases h
  · rfl
  · exact s.completed_st hi

/-- Settles O55: set-sound-timer overwrites `ST` from a register, and every other instruction commutes with a change of
`ST`. -/
theorem engineNeverReadsTheSoundTimer : Obligations.EngineNeverReadsTheSoundTimer := by
  unfold Obligations.EngineNeverReadsTheSoundTimer
  intro i s t b h
  by_cases hi : ∃ x, i = .ldStVx x
  · obtain ⟨x, rfl⟩ := hi
    cases h
    exact ⟨s.setSt (s.reg x), rfl, rfl, fun _ => rfl, fun hne => absurd rfl (hne x)⟩
  · have hne : ∀ x, i ≠ .ldStVx x := not_exists.mp hi
    exact ⟨t.setSt b, exec_setSt b hne h, rfl, fun hx => absurd hx hi, fun _ => ⟨exec_st hne h, rfl⟩⟩

/-! ## The reset state -/

/-- Settles O17: memory lists no cell, the stack holds no entry, and neither `HALTED` nor `FAULT` is set. -/
theorem resetMeetsTheInvariants : Obligations.ResetMeetsTheInvariants := by
  unfold Obligations.ResetMeetsTheInvariants
  refine ⟨Memory.wf_nil, ⟨?_, fun j hj => absurd hj (Nat.not_lt_zero _)⟩, rfl⟩
  decide

/-- R34, R343: the font at 0x050 to 0x09F, 0 elsewhere. -/
theorem Memory.unlisted_eq (a : Nat) :
    Memory.unlisted a = if 0x050 ≤ a ∧ a < 0x0A0 then defaultFont.getD (a - 0x050) 0 else 0 := by
  unfold Memory.unlisted Config.fontBase
  by_cases hlo : a < 0x050
  · rw [if_pos hlo, if_neg (by omega)]
  · rw [if_neg hlo]
    by_cases hhi : a < 0x0A0
    · rw [if_pos ⟨by omega, hhi⟩]
    · have hlen : defaultFont.length = 80 := rfl
      rw [if_neg (by omega), List.getD_eq_default _ _ (by omega)]

/-- Settles O18: the fields are the literal ones of `State.reset`, and memory reads as the unlisted value everywhere. -/
theorem resetHoldsTheInitialValues : Obligations.ResetHoldsTheInitialValues := by
  unfold Obligations.ResetHoldsTheInitialValues
  refine ⟨fun x => ?_, rfl, rfl, rfl, fun j hj => ?_, rfl, rfl, rfl, pixel_blank, fun k hk => ?_, rfl, rfl,
    fun a _ => Memory.unlisted_eq a⟩
  · exact Vector.getElem_replicate _
  · simp [State.reset, hj]
  · simp [State.reset, hk]

end Sys2Proof.Machine

/-! PROOFS for spec/20_memory.md: what a register dump stores and the next fetch reads, and what the engine owns alone. -/

namespace Sys2Proof.Machine

/-! ## A register dump and the fetch after it -/

/-- R204: a dump whose block is in range completes. -/
theorem exec_ldMemVx_in_range {x : RegId} {s : State} (h : s.i.toNat + x.toNat < 4096) :
    exec (.ldMemVx x) s = .next (s.storeAtIndex (s.regsUpTo x)) :=
  State.guardBlock_in_range _ (.inr h)

/-- R204: the byte a dump leaves at `I + r` is `V[r]`. -/
theorem State.read_dumped {x : RegId} {s : State} (hwf : s.mem.wf = true) (h : s.i.toNat + x.toNat < 4096)
    {r : RegId} (hr : r.toNat ≤ x.toNat) :
    (s.storeAtIndex (s.regsUpTo x)).mem.read (s.i.toNat + r.toNat) = s.reg r := by
  have hlen := s.regsUpTo_length x
  rw [State.storeAtIndex_mem, Memory.read_writeBlock_inside hwf (by omega) (by omega)]
  exact s.regsUpTo_getElem x r _

/-- Settles O39: the dump leaves `PC`, and the bytes at `PC` and `PC + 1` are then `V[0]` and `V[1]`. -/
theorem nextFetchSeesTheStoredBytes : Obligations.NextFetchSeesTheStoredBytes := by
  unfold Obligations.NextFetchSeesTheStoredBytes
  intro x s t hwf hx hpc hin h
  rw [exec_ldMemVx_in_range hin] at h
  cases h
  have hfst : (s.storeAtIndex (s.regsUpTo x)).mem.read s.pc.toNat = s.reg 0 := by
    rw [← hpc]; exact State.read_dumped hwf hin (r := 0) (Nat.zero_le _)
  have hsnd : (s.storeAtIndex (s.regsUpTo x)).mem.read (s.pc.toNat + 1) = s.reg 1 := by
    rw [← hpc]; exact State.read_dumped hwf hin (r := 1) hx
  have hfetch : s.pc.toNat + 1 < 4096 := by rw [← hpc]; omega
  rw [State.fetch_in_range (s := s.storeAtIndex _) hfetch, State.storeAtIndex_pc, hfst, hsnd]

/-! ## What the engine owns alone -/

/-- The timers, the key slots and the model's own bookkeeping are no part of what the engine owns alone (R59). -/
theorem enginePrivateSame_of_shared_update (s : State) (dt st : Byte) (keys : Vector Bool 16) (pending : List Event)
    (output : List Output) (ended : Bool) :
    EnginePrivateSame s { s with
      dt := dt, st := st, keys := keys, pending := pending, output := output, ended := ended } :=
  ⟨rfl, rfl, rfl, rfl, rfl, rfl, rfl, rfl, rfl, rfl⟩

/-- Settles O51: each action of another agent is one update of what it shares with the engine. -/
theorem otherAgentsLeaveTheEngineAlone : Obligations.OtherAgentsLeaveTheEngineAlone := by
  unfold Obligations.OtherAgentsLeaveTheEngineAlone
  intro s t hother h
  cases step_cases h with
  | tick _ ht => rw [ht, State.tick_eq]; exact enginePrivateSame_of_shared_update s ..
  | keyWrite _ _ _ ht | frameRead _ ht | quit _ ht => rw [ht]; exact enginePrivateSame_of_shared_update s ..
  | fetchFault hev | unhandled hev | instr _ hev => exact absurd hev hother

end Sys2Proof.Machine

/-! PROOFS for spec/30_encoding.md: the arms of decode, and decode against encode in both directions. -/

namespace Sys2Proof

/-! ## Encoding after decoding: a word from its fields -/

section

variable {op : Word} {g : BitVec 4}

theorem wordADDR_eq_of_group (hg : fieldG op = g) : wordADDR g (fieldNNN op) = op := by
  rw [← hg, wordADDR_fields]

theorem wordXKK_eq_of_group (hg : fieldG op = g) : wordXKK g (fieldX op) (fieldKK op) = op := by
  rw [← hg, wordXKK_fields]

theorem wordXYN_eq_of_group (hg : fieldG op = g) : wordXYN g (fieldX op) (fieldY op) (fieldN op) = op := by
  rw [← hg, wordXYN_fields]

/-- Format `XOP`: the low byte is the sub-operation. -/
theorem wordXKK_eq_of_sub {kk : Byte} (hg : fieldG op = g) (hkk : fieldKK op = kk) :
    wordXKK g (fieldX op) kk = op := by
  rw [← hkk, wordXKK_eq_of_group hg]

/-- Format `XYN` with the low nibble as the sub-operation. -/
theorem wordXYN_eq_of_sub {n : BitVec 4} (hg : fieldG op = g) (hn : fieldN op = n) :
    wordXYN g (fieldX op) (fieldY op) n = op := by
  rw [← hn, wordXYN_eq_of_group hg]

end

/-- The height of `DRW` is the low nibble. -/
theorem encode_drw_toNat (x y : RegId) (n : BitVec 4) : encode (.drw x y n.toNat) = wordXYN 0xD x y n := by
  simp [encode]

/-! ## The arms of decode (R86, R87) -/

/-- The arms of `decodeWord`, each with its result under both settings: the six groups that leave a word UNHANDLED, and
the ten in which every word is the encoding of an instruction. `decodeArm` ties it to `decodeWord`. -/
inductive DecodeArm (op : Word) : Prop
  | group0 (hg : fieldG op = 0x0) (h : ∀ loose, decodeWord loose op = decodeGroup0 loose op)
  | group5 (hg : fieldG op = 0x5) (h : ∀ loose, decodeWord loose op =
      if fieldN op = 0 ∨ loose = true then some (.seReg (fieldX op) (fieldY op)) else none)
  | group8 (hg : fieldG op = 0x8) (h : ∀ loose, decodeWord loose op = decodeGroup8 op)
  | group9 (hg : fieldG op = 0x9) (h : ∀ loose, decodeWord loose op =
      if fieldN op = 0 ∨ loose = true then some (.sneReg (fieldX op) (fieldY op)) else none)
  | groupE (hg : fieldG op = 0xE) (h : ∀ loose, decodeWord loose op = decodeGroupE op)
  | groupF (hg : fieldG op = 0xF) (h : ∀ loose, decodeWord loose op = decodeGroupF op)
  | everyWord (hg : fieldG op ≠ 0x0 ∧ fieldG op ≠ 0x5 ∧ fieldG op ≠ 0x8 ∧ fieldG op ≠ 0x9 ∧ fieldG op ≠ 0xE ∧
      fieldG op ≠ 0xF) (i : Instr) (hwf : i.wellFormed = true) (henc : encode i = op)
      (h : ∀ loose, decodeWord loose op = some i)

/-- A nibble is one of the sixteen. -/
theorem nibble_cases (g : BitVec 4) :
    g = 0x0 ∨ g = 0x1 ∨ g = 0x2 ∨ g = 0x3 ∨ g = 0x4 ∨ g = 0x5 ∨ g = 0x6 ∨ g = 0x7 ∨
    g = 0x8 ∨ g = 0x9 ∨ g = 0xA ∨ g = 0xB ∨ g = 0xC ∨ g = 0xD ∨ g = 0xE ∨ g = 0xF := by
  revert g; decide

/-- The group nibble picks the arm; in the ten groups of `everyWord` the operands are all the rest of the word. -/
theorem decodeArm (op : Word) : DecodeArm op := by
  rcases nibble_cases (fieldG op) with
    hg | hg | hg | hg | hg | hg | hg | hg | hg | hg | hg | hg | hg | hg | hg | hg
  · exact .group0 hg fun _ => by simp [decodeWord, hg]
  · exact .everyWord (by simp [hg]) (.jp _) rfl (wordADDR_eq_of_group hg) fun _ => by simp [decodeWord, hg]
  · exact .everyWord (by simp [hg]) (.call _) rfl (wordADDR_eq_of_group hg) fun _ => by simp [decodeWord, hg]
  · exact .everyWord (by simp [hg]) (.seImm _ _) rfl (wordXKK_eq_of_group hg) fun _ => by simp [decodeWord, hg]
  · exact .everyWord (by simp [hg]) (.sneImm _ _) rfl (wordXKK_eq_of_group hg) fun _ => by simp [decodeWord, hg]
  · exact .group5 hg fun _ => by simp [decodeWord, hg]
  · exact .everyWord (by simp [hg]) (.ldImm _ _) rfl (wordXKK_eq_of_group hg) fun _ => by simp [decodeWord, hg]
  · exact .everyWord (by simp [hg]) (.addImm _ _) rfl (wordXKK_eq_of_group hg) fun _ => by simp [decodeWord, hg]
  · exact .group8 hg fun _ => by simp [decodeWord, hg]
  · exact .group9 hg fun _ => by simp [decodeWord, hg]
  · exact .everyWord (by simp [hg]) (.ldI _) rfl (wordADDR_eq_of_group hg) fun _ => by simp [decodeWord, hg]
  · exact .everyWord (by simp [hg]) (.jpV0 _) rfl (wordADDR_eq_of_group hg) fun _ => by simp [decodeWord, hg]
  · exact .everyWord (by simp [hg]) (.rnd _ _) rfl (wordXKK_eq_of_group hg) fun _ => by simp [decodeWord, hg]
  · exact .everyWord (by simp [hg]) (.drw _ _ (fieldN op).toNat) (Instr.wellFormed_drw.mpr (fieldN op).isLt)
      (encode_drw_toNat _ _ _ ▸ wordXYN_eq_of_group hg) fun _ => by simp [decodeWord, hg]
  · exact .groupE hg fun _ => by simp [decodeWord, hg]
  · exact .groupF hg fun _ => by simp [decodeWord, hg]

/-! ## The arms that read the rest of the word: what they reject -/

section

variable {op : Word}

/-- R86, R89: strict decode of group 0 looks at the whole word. -/
theorem decodeGroup0_strict_eq_none : decodeGroup0 false op = none ↔ op ≠ 0x00E0 ∧ op ≠ 0x00EE := by
  simp [decodeGroup0, ite_eq_iff]

/-- R87: loose decode of group 0 looks at `kk` alone. -/
theorem decodeGroup0_loose : decodeGroup0 true op =
    if fieldKK op = 0xE0 then some .cls else if fieldKK op = 0xEE then some .ret else none := by
  have hcls : op = 0x00E0 → fieldKK op = 0xE0 := by rintro rfl; rfl
  have hret : op = 0x00EE → fieldKK op = 0xEE := by rintro rfl; rfl
  simp only [decodeGroup0, and_true, or_iff_right_of_imp hcls, or_iff_right_of_imp hret]

theorem decodeGroup8_eq_none :
    decodeGroup8 op = none ↔ (fieldN op).toNat ∈ [0x8, 0x9, 0xA, 0xB, 0xC, 0xD, 0xF] := by
  rcases nibble_cases (fieldN op) with
    hn | hn | hn | hn | hn | hn | hn | hn | hn | hn | hn | hn | hn | hn | hn | hn <;> simp [decodeGroup8, hn]

theorem decodeGroupE_eq_none : decodeGroupE op = none ↔ (fieldKK op).toNat ∉ [0x9E, 0xA1] := by
  simp [decodeGroupE, ite_eq_iff, ← BitVec.toNat_inj]

theorem decodeGroupF_eq_none : decodeGroupF op = none ↔
    (fieldKK op).toNat ∉ [0x07, 0x0A, 0x15, 0x18, 0x1E, 0x29, 0x33, 0x55, 0x65] := by
  simp [decodeGroupF, ite_eq_iff, ← BitVec.toNat_inj]

/-! ## The arms that read the rest of the word: what they accept -/

variable {i : Instr}

theorem encode_of_decodeGroup0 (h : decodeGroup0 false op = some i) : i.wellFormed = true ∧ encode i = op := by
  simp only [decodeGroup0, Bool.false_eq_true, and_false, or_false] at h
  split_ifs at h with hcls hret
  · cases h; exact ⟨rfl, hcls.symm⟩
  · cases h; exact ⟨rfl, hret.symm⟩

theorem encode_of_decodeGroup8 (hg : fieldG op = 0x8) (h : decodeGroup8 op = some i) :
    i.wellFormed = true ∧ encode i = op := by
  unfold decodeGroup8 at h
  split at h
  case h_10 => cases h
  all_goals
    rename_i hn
    cases h
    exact ⟨rfl, wordXYN_eq_of_sub hg (BitVec.eq_of_toNat_eq hn)⟩

theorem encode_of_decodeGroupE (hg : fieldG op = 0xE) (h : decodeGroupE op = some i) :
    i.wellFormed = true ∧ encode i = op := by
  unfold decodeGroupE at h
  split_ifs at h
  all_goals
    cases h
    exact ⟨rfl, wordXKK_eq_of_sub hg (by assumption)⟩

theorem encode_of_decodeGroupF (hg : fieldG op = 0xF) (h : decodeGroupF op = some i) :
    i.wellFormed = true ∧ encode i = op := by
  unfold decodeGroupF at h
  split_ifs at h
  all_goals
    cases h
    exact ⟨rfl, wordXKK_eq_of_sub hg (by assumption)⟩

end

/-! ## Decoding after encoding -/

/-- Every well-formed instruction is decoded from its word, case by case along the formats of R96. -/
theorem decodeWord_encode (loose : Bool) {i : Instr} (hwf : i.wellFormed = true) :
    decodeWord loose (encode i) = some i := by
  cases i with
  | cls | ret => cases loose <;> rfl
  | jp | call | ldI | jpV0 => simp [encode, decodeWord]
  | seImm | sneImm | ldImm | addImm | rnd => simp [encode, decodeWord]
  | seReg | sneReg => simp [encode, decodeWord]
  | ldReg | orReg | andReg | xorReg | addReg | sub | shr | subn | shl => simp [encode, decodeWord, decodeGroup8]
  | drw x y n => simp [encode, decodeWord, Nat.mod_eq_of_lt (Instr.wellFormed_drw.mp hwf)]
  | skp | sknp => simp [encode, decodeWord, decodeGroupE]
  | ldVxDt | ldVxK | ldDtVx | ldStVx | addIVx | ldFVx | ldBVx | ldMemVx | ldVxMem =>
    simp [encode, decodeWord, decodeGroupF]

/-- The two bytes of a well-formed instruction decode to it and leave the bytes after them. -/
theorem decodeBytes_encodeBytes (loose : Bool) {i : Instr} (rest : List Byte) (hwf : i.wellFormed = true) :
    decodeBytes loose (encodeBytes i ++ rest) = .ok (i, rest) := by
  refine (decodeBytes_word loose (encode i) rest).trans ?_
  rw [decodeWord_encode loose hwf]

end Sys2Proof

namespace Sys2Proof.Machine

/-! ## The statements -/

/-- Settles O10: each format's fields are read back from its word, and the word from its two bytes. -/
theorem decodeInvertsEncode : Obligations.DecodeInvertsEncode := by
  unfold Obligations.DecodeInvertsEncode
  exact fun loose _ rest hwf => ⟨decodeWord_encode loose hwf, decodeBytes_encodeBytes loose rest hwf⟩

/-- Settles O11: group and sub-operation are fixed by the arm, and the remaining fields are the operands. -/
theorem strictDecodeHasOneWordPerInstruction : Obligations.StrictDecodeHasOneWordPerInstruction := by
  unfold Obligations.StrictDecodeHasOneWordPerInstruction
  intro op i hdec
  cases decodeArm op with
  | group0 _ h => exact encode_of_decodeGroup0 (h false ▸ hdec)
  | group5 hg h | group9 hg h =>
    obtain ⟨hn, rfl⟩ : fieldN op = 0 ∧ _ = i := by simpa [h] using hdec
    exact ⟨rfl, wordXYN_eq_of_sub hg hn⟩
  | group8 hg h => exact encode_of_decodeGroup8 hg (h false ▸ hdec)
  | groupE hg h => exact encode_of_decodeGroupE hg (h false ▸ hdec)
  | groupF hg h => exact encode_of_decodeGroupF hg (h false ▸ hdec)
  | everyWord _ j hwf henc h =>
    obtain rfl : j = i := Option.some.inj ((h false).symm.trans hdec)
    exact ⟨hwf, henc⟩

/-- Settles O12: only the arms of groups 0, 5 and 9 look at the setting. -/
theorem looseDecodeDiffersInThreeArms : Obligations.LooseDecodeDiffersInThreeArms := by
  unfold Obligations.LooseDecodeDiffersInThreeArms
  intro op
  cases decodeArm op with
  | group0 hg h => simp [hg, h, decodeGroup0_loose]
  | group5 hg h | group9 hg h => simp [hg, h]
  | group8 hg h | groupE hg h | groupF hg h => simp [hg, h]
  | everyWord hg _ _ _ h =>
    obtain ⟨h0, h5, -, h9, -, -⟩ := hg
    exact ⟨fun hg => absurd hg h0, fun hg => absurd hg h5, fun hg => absurd hg h9, fun _ _ _ => by rw [h, h]⟩

/-- Settles O13: each of the six arms that can reject does so on its line of the table, and the other groups reject no
word. -/
theorem strictDecodeRejectsExactlyTheUnhandledWords : Obligations.StrictDecodeRejectsExactlyTheUnhandledWords := by
  unfold Obligations.StrictDecodeRejectsExactlyTheUnhandledWords
  intro op
  cases decodeArm op with
  | group0 hg h => rw [h, decodeGroup0_strict_eq_none]; simp [hg]
  | group5 hg h | group9 hg h => simp [hg, h]
  | group8 hg h => rw [h, decodeGroup8_eq_none]; simp [hg]
  | groupE hg h => rw [h, decodeGroupE_eq_none]; simp [hg]
  | groupF hg h => rw [h, decodeGroupF_eq_none]; simp [hg]
  | everyWord hg _ _ _ h =>
    obtain ⟨h0, h5, h8, h9, hE, hF⟩ := hg
    simp only [h, h0, h5, h8, h9, hE, hF, reduceCtorEq, false_and, or_self]

/-- Settles O9: the nine words are the encodings of their instructions, and `0x8008` has a low nibble that
group 8 rejects. -/
theorem writtenOutWordsDecode : Obligations.WrittenOutWordsDecode := by
  unfold Obligations.WrittenOutWordsDecode
  intro loose
  have hgroup8 : decodeGroup8 0x8008 = none := decodeGroup8_eq_none.mpr (by decide)
  exact ⟨decodeWord_encode loose (i := .cls) rfl, decodeWord_encode loose (i := .call 0x345) rfl,
    decodeWord_encode loose (i := .seReg 1 2) rfl, decodeWord_encode loose (i := .addImm 1 0xFF) rfl,
    decodeWord_encode loose (i := .subn 0xA 0xB) rfl, decodeWord_encode loose (i := .ldI 0x123) rfl,
    decodeWord_encode loose (i := .drw 0 1 5) rfl, decodeWord_encode loose (i := .sknp 5) rfl,
    decodeWord_encode loose (i := .ldVxMem 3) rfl, hgroup8⟩

end Sys2Proof.Machine

/-! PROOFS for spec/40_cycle.md: what a cycle runs, what a fetch fault does, what halts, and the bound of `PC`. -/

namespace Sys2Proof

/-- R85, R88: what decode answers is well formed, under both settings. -/
theorem wellFormed_of_decodeWord {loose : Bool} {op : Word} {i : Instr} (h : decodeWord loose op = some i) :
    i.wellFormed = true := by
  cases decodeArm op with
  | group0 _ harm =>
    rw [harm] at h
    cases loose with
    | false => exact (encode_of_decodeGroup0 h).1
    | true =>
      rw [decodeGroup0_loose] at h
      split_ifs at h <;> cases h <;> rfl
  | group5 _ harm | group9 _ harm =>
    obtain ⟨-, rfl⟩ : (fieldN op = 0 ∨ loose = true) ∧ _ = i := by simpa [harm] using h
    rfl
  | group8 hg harm => exact (encode_of_decodeGroup8 hg (harm loose ▸ h)).1
  | groupE hg harm => exact (encode_of_decodeGroupE hg (harm loose ▸ h)).1
  | groupF hg harm => exact (encode_of_decodeGroupF hg (harm loose ▸ h)).1
  | everyWord _ j hwf _ harm =>
    obtain rfl : j = i := Option.some.inj ((harm loose).symm.trans h)
    exact hwf

end Sys2Proof

namespace Sys2Proof.Machine

/-! ## The step that is a cycle -/

theorem step_cycle {s : State} (h : s.CycleNext) : step s = s.popEvent.cycle := by
  obtain ⟨hrun, hev⟩ := h
  rw [step_running hrun, hev]
  rfl

/-- Settles O1: the step is the cycle, its fetch is in range, and decode answers well-formed instructions alone. -/
theorem stepRunsTheDecodedInstruction : Obligations.StepRunsTheDecodedInstruction := by
  unfold Obligations.StepRunsTheDecodedInstruction
  intro s op i hcycle hpc hop hdec
  refine ⟨wellFormed_of_decodeWord hdec, ?_⟩
  rw [step_cycle hcycle, State.cycle_in_range (s := s.popEvent) hpc hop, hdec]
  rfl

/-- Settles O3: the fetch check reports the larger of `PC` and 4096, and the halt is the only effect. -/
theorem fetchFaultNamesTheFirstBadAddress : Obligations.FetchFaultNamesTheFirstBadAddress := by
  unfold Obligations.FetchFaultNamesTheFirstBadAddress
  intro s hcycle hpc
  rw [step_cycle hcycle, State.cycle_out_of_range (s := s.popEvent) (Nat.le_of_not_lt hpc), max_def']
  rfl

/-! ## What halts -/

/-- An instruction that halts a running machine raised a fault, recorded under its fetch address and word (R303). -/
theorem exec_halts {i : Instr} {s t : State} (hs : s.halted = false) (h : exec i s = .next t) (ht : t.halted = true) :
    ∃ r, t.fault = some r ∧ r.pc = s.pc - 2 ∧ r.opcode = some t.opcode := by
  obtain ⟨code, info, -, rfl⟩ | ⟨-, rfl⟩ := exec_cases h
  · exact ⟨s.recordOf code info, rfl, rfl, rfl⟩
  · rw [s.completed_halted, hs] at ht
    cases ht

/-- Settles O4: of the ways to step, only a fetch fault and an instruction that raises a fault write `HALTED`. -/
theorem onlyAFatalFaultHalts : Obligations.OnlyAFatalFaultHalts := by
  unfold Obligations.OnlyAFatalFaultHalts
  refine ⟨fun s t hhalt h => ?_, fun s t h ht => ?_⟩
  · obtain ⟨⟨hrun, -⟩, -⟩ := step_next_running h
    rw [hhalt] at hrun
    cases hrun
  · obtain ⟨⟨hrun, -⟩, -⟩ := step_next_running h
    cases step_cases h with
    | fetchFault hev hpc heq => subst heq; exact ⟨hev, _, rfl, rfl, .inl ⟨rfl, rfl, hpc⟩⟩
    | instr i hev hpc _ hexec =>
      obtain ⟨r, hfault, hrpc, hrop⟩ := exec_halts (s := s.popEvent.advance s.fetchWord) hrun hexec ht
      exact ⟨hev, r, hfault, hrpc.trans (BitVec.add_sub_cancel s.pc 2), .inr ⟨hrop, hpc⟩⟩
    | tick _ heq => rw [heq, State.tick_eq] at ht; exact absurd (hrun.symm.trans ht) Bool.false_ne_true
    | keyWrite _ _ _ heq | frameRead _ heq | quit _ heq | unhandled _ _ _ heq =>
      rw [heq] at ht; exact absurd (hrun.symm.trans ht) Bool.false_ne_true

/-! ## The bound of `PC` (R116) -/

/-- The occupied stack entries are at most 0x1000: the second half of `State.PcBounded`. -/
def State.StackBounded (s : State) : Prop := ∀ j : Fin 16, j.val < s.sp.val → (s.stack[j.val]).toNat ≤ 0x1000

theorem State.pcBounded_iff {s : State} : s.PcBounded ↔ s.pc.toNat ≤ 0x10FE ∧ s.StackBounded := Iff.rfl

theorem State.stackBounded_congr {s t : State} (h : t.sp = s.sp ∧ t.stack = s.stack) (hst : s.StackBounded) :
    t.StackBounded := by
  obtain ⟨hsp, hstack⟩ := h
  unfold State.StackBounded
  rw [hsp, hstack]
  exact hst

theorem toNat_add_two {w : Word} (h : w.toNat ≤ 0x1000) : (w + 2).toNat = w.toNat + 2 :=
  BitVec.toNat_add_of_lt (show w.toNat + 2 < 2 ^ 16 by omega)

/-- Where two bytes can be fetched, the advance ends at 0xFFE + 2 at most. -/
theorem State.advance_pc_bounds {s : State} (op : Word) (h : s.Fetchable) :
    2 ≤ (s.advance op).pc.toNat ∧ (s.advance op).pc.toNat ≤ 0x1000 := by
  have hlt : s.pc.toNat + 1 < 4096 := h
  have hadd : (s.advance op).pc.toNat = s.pc.toNat + 2 := toNat_add_two (by omega)
  omega

theorem zext16_toNat (nnn : Addr) : (zext16 nnn).toNat = nnn.toNat := BitVec.toNat_setWidth_of_le (by decide)

theorem zext16_toNat_le (nnn : Addr) : (zext16 nnn).toNat ≤ 0xFFF := by
  rw [zext16_toNat]
  exact Nat.le_of_lt_succ nnn.isLt

/-- R137: 0xFFF + 0xFF is the highest target. -/
theorem State.targetV0_toNat_le (s : State) (nnn : Addr) : (s.targetV0 nnn).toNat ≤ 0x10FE := by
  have hnnn := zext16_toNat_le nnn
  have hbyte : (s.reg 0).toNat < 256 := (s.reg 0).isLt
  have hv0 : ((s.reg 0).setWidth 16).toNat = (s.reg 0).toNat := BitVec.toNat_setWidth_of_le (by decide)
  have hadd : (s.targetV0 nnn).toNat = (zext16 nnn).toNat + ((s.reg 0).setWidth 16).toNat :=
    BitVec.toNat_add_of_lt (by omega)
  omega

theorem State.skipTarget_toNat_le {s : State} (c : Bool) (hhi : s.pc.toNat ≤ 0x1000) :
    (s.skipTarget c).toNat ≤ 0x1002 := by
  cases c with
  | false => exact hhi.trans (by decide)
  | true => exact (toNat_add_two hhi).trans_le (by omega)

/-- Going back two bytes does not wrap where the advance did not (R263). -/
theorem State.waitKey_pc_toNat_le {s : State} (x : RegId) (hlo : 2 ≤ s.pc.toNat) (hhi : s.pc.toNat ≤ 0x1000) :
    (s.waitKey x).pc.toNat ≤ 0x1000 := by
  unfold State.waitKey
  cases s.lowestKey with
  | some k => exact hhi
  | none =>
    have hsub : (s.pc - 2).toNat = s.pc.toNat - 2 := BitVec.toNat_sub_of_le (by simpa [BitVec.le_def] using hlo)
    exact hsub.trans_le (by omega)

/-- R130: a pop takes an occupied entry. -/
theorem State.popped_pc_toNat_le {s : State} (hst : s.StackBounded) (hsp : s.sp.val ≠ 0) :
    s.popped.pc.toNat ≤ 0x1000 :=
  hst ⟨s.sp.val - 1, by omega⟩ (by show s.sp.val - 1 < s.sp.val; omega)

theorem State.stackBounded_popped {s : State} (hst : s.StackBounded) (hsp : s.sp.val ≠ 0) :
    s.popped.StackBounded := by
  have hval : (s.sp - 1).val = s.sp.val - 1 := Fin.val_sub_one_of_ne_zero (Fin.val_ne_zero_iff.mp hsp)
  intro j hj
  have hlt : j.val < (s.sp - 1).val := hj
  exact hst j (by omega)

/-- R132: a push adds the return address to the occupied entries. -/
theorem State.stackBounded_pushed {s : State} (hst : s.StackBounded) (hhi : s.pc.toNat ≤ 0x1000)
    (hsp : s.sp.val ≠ 16) : s.pushed.StackBounded := by
  have hval : (s.sp + 1).val = s.sp.val + 1 := Fin.val_add_one_of_lt (show s.sp.val < 16 by omega)
  intro j hj
  have hlt : j.val < (s.sp + 1).val := hj
  simp only [State.pushed, Vector.getElem_setIfInBounds]
  by_cases htop : s.sp.val = j.val
  · rwa [if_pos htop]
  · rw [if_neg htop]
    exact hst j (by omega)

section
variable {i : Instr} {s : State}

theorem State.completed_pc_toNat_le (hlo : 2 ≤ s.pc.toNat) (hhi : s.pc.toNat ≤ 0x1000) (hst : s.StackBounded)
    (hf : faultOf s i = none) : (s.completed i).pc.toNat ≤ 0x10FE := by
  cases i with
  | ret => exact (State.popped_pc_toNat_le hst fun h0 => by simp [faultOf, h0] at hf).trans (by decide)
  | jp nnn | call nnn => exact (zext16_toNat_le nnn).trans (by decide)
  | jpV0 nnn => exact s.targetV0_toNat_le nnn
  | seImm | sneImm | seReg | sneReg | skp | sknp => exact (State.skipTarget_toNat_le _ hhi).trans (by decide)
  | ldVxK x => exact (State.waitKey_pc_toNat_le x hlo hhi).trans (by decide)
  | _ => rw [s.completed_pc (by simp)]; omega

theorem State.completed_stackBounded (hhi : s.pc.toNat ≤ 0x1000) (hst : s.StackBounded) (hf : faultOf s i = none) :
    (s.completed i).StackBounded := by
  cases i with
  | ret => exact State.stackBounded_popped hst fun h0 => by simp [faultOf, h0] at hf
  | call nnn => exact State.stackBounded_pushed hst hhi fun hfull => by simp [faultOf, hfull] at hf
  | _ => exact State.stackBounded_congr (s.completed_stack (by simp)) hst

end

/-- An instruction runs with `PC` at most 0x1000, the bound its return address, its skip and its rewind rest on. -/
theorem exec_pcBounded {i : Instr} {s t : State} (hlo : 2 ≤ s.pc.toNat) (hhi : s.pc.toNat ≤ 0x1000)
    (hst : s.StackBounded) (h : exec i s = .next t) : t.PcBounded := by
  obtain ⟨code, info, -, rfl⟩ | ⟨hf, rfl⟩ := exec_cases h
  · exact ⟨hhi.trans (by decide), hst⟩
  · exact ⟨State.completed_pc_toNat_le hlo hhi hst hf, State.completed_stackBounded hhi hst hf⟩

/-- Settles O15: only a cycle whose fetch is in range moves `PC`, so what it advances to is at most 0x1000. -/
theorem stepKeepsPcBounded : Obligations.StepKeepsPcBounded := by
  unfold Obligations.StepKeepsPcBounded
  intro s t hs h
  obtain ⟨-, hst⟩ := State.pcBounded_iff.mp hs
  cases step_cases h with
  | tick _ ht => rw [ht, State.tick_eq]; exact hs
  | instr i _ hpc _ hexec =>
    obtain ⟨hlo, hhi⟩ := State.advance_pc_bounds (s := s.popEvent) s.fetchWord hpc
    exact exec_pcBounded hlo hhi hst hexec
  | unhandled _ hpc _ ht =>
    obtain ⟨-, hhi⟩ := State.advance_pc_bounds (s := s.popEvent) s.fetchWord hpc
    rw [ht]
    exact ⟨hhi.trans (by decide), hst⟩
  | keyWrite _ _ _ ht | frameRead _ ht | quit _ ht | fetchFault _ _ ht => rw [ht]; exact hs

end Sys2Proof.Machine

/-! PROOFS for spec/41_control_flow.md: where the jumps, the skips, the call and the return leave `PC` and the stack. -/

namespace Sys2Proof.Machine

/-! ## An instruction from its fault -/

theorem exec_of_faultOf_none {i : Instr} {s : State} (h : faultOf s i = none) : exec i s = .next (s.completed i) := by
  rw [exec_eq, h, State.faultOr_none]

theorem takesFault_of_faultOf {i : Instr} {s : State} {code : FaultCode} {info : Option Nat}
    (h : faultOf s i = some (code, info)) : TakesFault (exec i s) s code info := by
  rw [exec_eq, h, State.faultOr_some]
  exact ⟨_, rfl, rfl⟩

/-! ## The stack: a push, a pop, a pop after a push -/

section
variable {s : State}

theorem State.pushed_sp (h : s.sp.val < 16) : s.pushed.sp.val = s.sp.val + 1 := Fin.val_add_one_of_lt h

theorem State.pushed_stack_top (h : s.sp.val < 16) : s.pushed.stack[s.sp.val]? = some s.pc :=
  Vector.getElem?_setIfInBounds_self_of_lt h

theorem State.pushed_stack_other {j : Nat} (h : j ≠ s.sp.val) : s.pushed.stack[j]? = s.stack[j]? :=
  Vector.getElem?_setIfInBounds_ne h.symm

theorem State.popped_sp (h : s.sp.val ≠ 0) : s.popped.sp.val = s.sp.val - 1 :=
  Fin.val_sub_one_of_ne_zero (Fin.val_ne_zero_iff.mp h)

theorem State.popped_pc (s : State) : some s.popped.pc = s.stack[s.sp.val - 1]? :=
  (Vector.getElem?_eq_getElem _).symm

/-- R139: a pop from the stack and `SP` that a push left takes back the pushed `PC` and the `SP` before it. -/
theorem State.popped_of_pushed {u : State} (h : s.sp.val < 16) (hstack : u.stack = s.pushed.stack)
    (hsp : u.sp = s.pushed.sp) : u.popped.pc = s.pc ∧ u.popped.sp = s.sp := by
  have hval : u.sp.val = s.sp.val + 1 := hsp ▸ State.pushed_sp h
  have htop : u.sp.val - 1 = s.sp.val := by omega
  constructor
  · apply Option.some.inj
    rw [u.popped_pc, hstack, htop, State.pushed_stack_top h]
  · exact Fin.ext ((State.popped_sp (by omega)).trans htop)

/-! ## Call and return -/

/-- R132: a call with a free entry pushes and jumps. -/
theorem exec_call (nnn : Addr) (h : s.sp.val < 16) : exec (.call nnn) s = .next (s.pushed.setPc (zext16 nnn)) :=
  exec_of_faultOf_none (if_neg h.ne)

/-- R130: a return with an occupied entry pops it. -/
theorem exec_ret (h : s.sp.val ≠ 0) : exec .ret s = .next s.popped := exec_of_faultOf_none (if_neg h)

end

theorem zext16_eq_ofNat (nnn : Addr) : zext16 nnn = BitVec.ofNat 16 nnn.toNat := (BitVec.ofNat_toNat 16 nnn).symm

/-- Settles O23: the return pops what the call pushed, and the push wrote no entry below `SP`. -/
theorem returnResumesAfterTheCall : Obligations.ReturnResumesAfterTheCall := by
  unfold Obligations.ReturnResumesAfterTheCall
  intro nnn s t u hcall hroom hstack hsp
  rw [exec_call nnn hroom] at hcall
  cases hcall
  have hne : u.sp.val ≠ 0 := by rw [hsp, State.setPc_sp, State.pushed_sp hroom]; omega
  obtain ⟨hpc, hsp'⟩ := State.popped_of_pushed hroom hstack hsp
  refine ⟨u.popped, exec_ret hne, hpc, hsp', fun j hj => ?_⟩
  calc u.popped.stack[j]? = s.pushed.stack[j]? := congrArg (·[j]?) hstack
    _ = s.stack[j]? := State.pushed_stack_other hj.ne

/-- Settles O21: the call pushes and jumps while an entry is free, and faults at `SP = 16`. -/
theorem callPushesTheReturnAddress : Obligations.CallPushesTheReturnAddress := by
  unfold Obligations.CallPushesTheReturnAddress
  intro nnn s
  refine ⟨fun hroom => ?_, fun hfull => takesFault_of_faultOf (if_pos hfull)⟩
  exact ⟨_, exec_call nnn hroom, State.pushed_stack_top hroom, State.pushed_sp hroom, zext16_eq_ofNat nnn,
    fun _ => State.pushed_stack_other, rfl⟩

/-- Settles O22: the return pops while an entry is occupied, and faults at `SP = 0`. -/
theorem returnPopsTheTopEntry : Obligations.ReturnPopsTheTopEntry := by
  unfold Obligations.ReturnPopsTheTopEntry
  intro s
  refine ⟨fun hne => ?_, fun hempty => takesFault_of_faultOf (if_pos hempty)⟩
  exact ⟨_, exec_ret hne, s.popped_pc, State.popped_sp hne, rfl⟩

/-! ## Jumps and skips -/

/-- R137: both summands fit in 16 bits, so the sum may be taken before or after the reduction. -/
theorem State.targetV0_eq_ofNat (s : State) (nnn : Addr) :
    s.targetV0 nnn = BitVec.ofNat 16 (nnn.toNat + (s.reg 0).toNat) := by
  rw [BitVec.ofNat_add, BitVec.ofNat_toNat, BitVec.ofNat_toNat]
  rfl

/-- Settles O20: a jump completes as one write of its target to `PC`. -/
theorem jumpsSetPc : Obligations.JumpsSetPc := by
  unfold Obligations.JumpsSetPc
  intro nnn s
  rw [← zext16_eq_ofNat, ← s.targetV0_eq_ofNat]
  exact ⟨exec_of_faultOf_none rfl, exec_of_faultOf_none rfl⟩

theorem State.skipTarget_beq (s : State) (a b : Byte) : s.skipTarget (a == b) = if a = b then s.pc + 2 else s.pc := by
  simp only [State.skipTarget, beq_iff_eq]

theorem State.skipTarget_bne (s : State) (a b : Byte) : s.skipTarget (a != b) = if a ≠ b then s.pc + 2 else s.pc := by
  simp only [State.skipTarget, bne_iff_ne]

/-- Settles O24: an immediate skip completes with `PC` at the skip target of its comparison with `kk`. -/
theorem immediateSkipsCompareWithTheByte : Obligations.ImmediateSkipsCompareWithTheByte := by
  unfold Obligations.ImmediateSkipsCompareWithTheByte
  intro x kk s
  rw [← s.skipTarget_beq, ← s.skipTarget_bne]
  exact ⟨exec_of_faultOf_none rfl, exec_of_faultOf_none rfl⟩

/-- Settles O25: a register skip completes with `PC` at the skip target of its comparison with `V[y]`. -/
theorem registerSkipsCompareTwoRegisters : Obligations.RegisterSkipsCompareTwoRegisters := by
  unfold Obligations.RegisterSkipsCompareTwoRegisters
  intro x y s
  rw [← s.skipTarget_beq, ← s.skipTarget_bne]
  exact ⟨exec_of_faultOf_none rfl, exec_of_faultOf_none rfl⟩

end Sys2Proof.Machine

/-! PROOFS for spec/42_register_alu.md: what the ALU forms write to `V[x]` and to VF, and what they leave unchanged. -/

namespace Sys2Proof.Machine

/-! ## One register written; a result and then a flag written (R173) -/

theorem State.regsSameBut_setReg (s : State) (x : RegId) (b : Byte) : RegsSameBut x s (s.setReg x b) :=
  fun _ hr => s.reg_setReg_other b hr

/-- R173: unless `x = 15`, the flag does not overwrite the result. -/
theorem State.reg_setResultFlag_dest (s : State) {x : RegId} (b : Byte) (f : Bool) (hx : x ≠ 15) :
    (s.setResultFlag x b f).reg x = b := by
  rw [State.reg_setResultFlag, if_neg hx, if_pos rfl]

theorem State.reg_setResultFlag_other (s : State) {x r : RegId} (b : Byte) (f : Bool) (hr : r ≠ x) (h15 : r ≠ 15) :
    (s.setResultFlag x b f).reg r = s.reg r := by
  rw [State.reg_setResultFlag, if_neg h15, if_neg hr]

/-- Result and flag read together as one number. -/
theorem State.resultFlag_toNat (s : State) {x : RegId} (b : Byte) (f : Bool) (hx : x ≠ 15) :
    ((s.setResultFlag x b f).reg x).toNat + 256 * ((s.setResultFlag x b f).reg 15).toNat =
      b.toNat + 256 * f.toNat := by
  rw [s.reg_setResultFlag_dest b f hx, s.reg_setResultFlag_vf, flagByte_toNat]

/-- A flag as VF holds it, against the condition the flag stands for. -/
theorem flagByte_of_iff {f : Bool} {P : Prop} (h : f = true ↔ P) :
    P ∧ flagByte f = 1 ∨ ¬P ∧ flagByte f = 0 := by
  rw [← h]
  cases f with
  | true => exact .inl ⟨rfl, rfl⟩
  | false => exact .inr ⟨Bool.false_ne_true, rfl⟩

section
variable {s : State} {i : Instr} {x : RegId} {b : Byte}

/-- An instruction without a fault whose completed state is one register write. -/
theorem writesReg_of_completed (hf : faultOf s i = none) (hc : s.completed i = s.setReg x b) :
    WritesReg (exec i s) s x b := by
  rw [exec_of_faultOf_none hf, hc]
  exact ⟨_, rfl, s.reg_setReg_same x b, s.regsSameBut_setReg x b, rfl⟩

/-- An instruction without a fault whose completed state is a result and then a flag. -/
theorem writesResultAndFlag_of_completed {f : Bool} {P : Prop} (hf : faultOf s i = none)
    (hc : s.completed i = s.setResultFlag x b f) (hflag : f = true ↔ P) :
    WritesResultAndFlag (exec i s) s x b P := by
  rw [exec_of_faultOf_none hf, hc]
  refine ⟨_, rfl, ?_, s.reg_setResultFlag_dest b f, fun _ => s.reg_setResultFlag_other b f, rfl⟩
  rw [s.reg_setResultFlag_vf]
  exact flagByte_of_iff hflag

end

/-! ## Byte arithmetic and the flags, as arithmetic of numbers (R174) -/

section
variable (a b : Byte)

theorem byte_add_eq_ofNat : a + b = BitVec.ofNat 8 ((a.toNat + b.toNat) % 256) :=
  BitVec.eq_of_toNat_eq (by simp)

theorem byte_sub_eq_ofInt : a - b = BitVec.ofInt 8 ((a.toNat : Int) - b.toNat) := by
  apply BitVec.eq_of_toNat_eq
  rw [BitVec.toNat_sub, BitVec.toNat_ofInt]
  omega

theorem byte_shiftRight_one_eq_ofNat : a >>> 1 = BitVec.ofNat 8 (a.toNat / 2) := by
  apply BitVec.eq_of_toNat_eq
  rw [BitVec.toNat_ushiftRight, Nat.shiftRight_one, BitVec.toNat_ofNat]
  omega

theorem byte_shiftLeft_one_eq_ofNat : a <<< 1 = BitVec.ofNat 8 (a.toNat * 2 % 256) :=
  BitVec.eq_of_toNat_eq (by simp [Nat.shiftLeft_eq])

theorem carryFlag_iff : carryFlag a b = true ↔ 255 < a.toNat + b.toNat := decide_eq_true_iff

theorem noBorrowFlag_iff : noBorrowFlag a b = true ↔ a.toNat ≥ b.toNat := decide_eq_true_iff

/-- Bit 0 says whether the byte is odd. -/
theorem shiftedOutRight_iff : shiftedOutRight a = true ↔ a.toNat % 2 = 1 := by
  unfold shiftedOutRight
  rw [← BitVec.testBit_toNat, Nat.testBit_zero, decide_eq_true_iff]

/-- Bit 7 says whether the byte is in the upper half. -/
theorem shiftedOutLeft_iff : shiftedOutLeft a = true ↔ 128 ≤ a.toNat := by
  have hmsb : shiftedOutLeft a = a.msb := (BitVec.msb_eq_getLsbD_last a).symm
  rw [hmsb, BitVec.msb_eq_decide, decide_eq_true_iff]

end

/-! ## The statements -/

/-- Settles O31: with `x` not 15 result and flag are both kept, and they are the exact sum and difference. -/
theorem sumAndDifferenceAreExactWithTheirFlag : Obligations.SumAndDifferenceAreExactWithTheirFlag := by
  unfold Obligations.SumAndDifferenceAreExactWithTheirFlag
  intro x y s t u hx hadd hsub
  cases hadd
  cases hsub
  constructor
  · rw [s.resultFlag_toNat _ _ hx]
    exact add_carry_exact _ _
  · rw [s.resultFlag_toNat _ _ hx, Nat.add_right_comm]
    exact sub_borrow_exact _ _

/-- Settles O26: each of the five forms completes as one write of `V[x]`. -/
theorem movesAndLogicWriteOnlyTheirDestination : Obligations.MovesAndLogicWriteOnlyTheirDestination := by
  unfold Obligations.MovesAndLogicWriteOnlyTheirDestination
  intro x y kk s
  exact ⟨writesReg_of_completed rfl rfl, writesReg_of_completed rfl rfl, writesReg_of_completed rfl rfl,
    writesReg_of_completed rfl rfl, writesReg_of_completed rfl rfl⟩

/-- Settles O27: one write of `V[x]`, with the wrapped sum. -/
theorem addImmediateWrapsWithNoFlag : Obligations.AddImmediateWrapsWithNoFlag := by
  unfold Obligations.AddImmediateWrapsWithNoFlag
  intro x kk s
  rw [← byte_add_eq_ofNat]
  exact writesReg_of_completed rfl rfl

/-- Settles O28: the sum and then the carry, both of the old operands. -/
theorem addRegistersReportsCarry : Obligations.AddRegistersReportsCarry := by
  unfold Obligations.AddRegistersReportsCarry
  intro x y s
  rw [← byte_add_eq_ofNat]
  exact writesResultAndFlag_of_completed rfl rfl (carryFlag_iff _ _)

/-- Settles O29: the difference and then the no-borrow flag, with minuend `V[x]` and with minuend `V[y]`. -/
theorem subtractsReportNoBorrow : Obligations.SubtractsReportNoBorrow := by
  unfold Obligations.SubtractsReportNoBorrow
  intro x y s
  rw [← byte_sub_eq_ofInt, ← byte_sub_eq_ofInt]
  exact ⟨writesResultAndFlag_of_completed rfl rfl (noBorrowFlag_iff _ _),
    writesResultAndFlag_of_completed rfl rfl (noBorrowFlag_iff _ _)⟩

/-- Settles O30: half and parity of `V[x]`, its double and its upper bit. -/
theorem shiftsReportTheBitShiftedOut : Obligations.ShiftsReportTheBitShiftedOut := by
  unfold Obligations.ShiftsReportTheBitShiftedOut
  intro x y s
  rw [← byte_shiftRight_one_eq_ofNat, ← byte_shiftLeft_one_eq_ofNat]
  exact ⟨writesResultAndFlag_of_completed rfl rfl (shiftedOutRight_iff _),
    writesResultAndFlag_of_completed rfl rfl (shiftedOutLeft_iff _)⟩

/-- Settles O33: the draw is taken, and the masked byte is the one register write after it. -/
theorem randomWritesAMaskedFreshByte : Obligations.RandomWritesAMaskedFreshByte := by
  unfold Obligations.RandomWritesAMaskedFreshByte
  intro x kk s
  have hdest : (s.completed (.rnd x kk)).reg x = Config.rand8 s.draws &&& kk :=
    s.drawn.reg_setReg_same x _
  refine ⟨_, exec_of_faultOf_none rfl, hdest, fun hkk => ?_, s.drawn.regsSameBut_setReg x _, rfl⟩
  rw [hdest, hkk]
  exact BitVec.and_zero

end Sys2Proof.Machine

/-! PROOFS for spec/43_index_memory.md: the writers of `I`, and what the block forms store, load and leave. -/

namespace Sys2Proof.Machine

/-! ## Blocks from `I` on -/

/-- R53, R305: an instruction that guards `count` bytes faults with the lowest bad address when the last one is. -/
theorem takesFault_of_block_out_of_range {s : State} {i : Instr} {count : Nat}
    (hi : faultOf s i = s.blockFault count) (h0 : count ≠ 0) (h : 4096 < s.i.toNat + count) :
    TakesFault (exec i s) s .memoryOutOfRange (some (if 4096 ≤ s.i.toNat then s.i.toNat else 4096)) := by
  have hlow : (if 4096 ≤ s.i.toNat then s.i.toNat else 4096) = max s.i.toNat 4096 := by
    rw [Nat.max_comm, Nat.max_def]
  rw [hlow]
  exact takesFault_of_faultOf (hi.trans (if_pos ⟨h0, h⟩))

/-- R206: a store from `I` on leaves every byte outside its own alone. -/
theorem State.memSameOutside_storeAtIndex (s : State) (bytes : List Byte) :
    MemSameOutside s.i.toNat bytes.length s (s.storeAtIndex bytes) :=
  fun _ ha => Memory.read_writeBlock_other s.mem ha

/-- R203: store-BCD completes when its three addresses are in range. -/
theorem exec_ldBVx_in_range {x : RegId} {s : State} (h : s.i.toNat + 2 < 4096) :
    exec (.ldBVx x) s = .next (s.storeAtIndex (bcdDigits (s.reg x))) :=
  State.guardBlock_in_range _ (.inr h)

/-- R205: a load whose block is in range completes. -/
theorem exec_ldVxMem_in_range {x : RegId} {s : State} (h : s.i.toNat + x.toNat < 4096) :
    exec (.ldVxMem x) s = .next (s.loadRegs x) :=
  State.guardBlock_in_range _ (.inr h)

/-- R203: the byte store-BCD leaves at `I + k` is digit `k`. -/
theorem State.read_bcdStored {s : State} (hwf : s.mem.wf = true) (h : s.i.toNat + 2 < 4096) (v : Byte) {k : Nat}
    (hk : k < 3) : (s.storeAtIndex (bcdDigits v)).mem.read (s.i.toNat + k) = (bcdDigits v)[k] :=
  Memory.read_writeBlock_inside hwf hk h

/-- R204: outside the `x + 1` bytes of the dump memory reads as before. -/
theorem State.memSameOutside_dumped (s : State) (x : RegId) :
    MemSameOutside s.i.toNat (x.toNat + 1) s (s.storeAtIndex (s.regsUpTo x)) :=
  s.regsUpTo_length x ▸ s.memSameOutside_storeAtIndex (s.regsUpTo x)

/-- R203: each digit fits a byte, and the three make up the number. -/
theorem byte_eq_sum_of_digits {v h t o : Byte} (hh : h = BitVec.ofNat 8 (v.toNat / 100))
    (ht : t = BitVec.ofNat 8 (v.toNat / 10 % 10)) (ho : o = BitVec.ofNat 8 (v.toNat % 10)) :
    h.toNat * 100 + t.toNat * 10 + o.toNat = v.toNat := by
  have hv := v.isLt
  simp only [hh, ht, ho, BitVec.toNat_ofNat]
  omega

/-! ## The block forms -/

/-- Settles O35: the three bytes read as the digits, and a block that passes 4096 faults. -/
theorem storeBcdWritesThreeDigits : Obligations.StoreBcdWritesThreeDigits := by
  unfold Obligations.StoreBcdWritesThreeDigits
  intro x s
  refine ⟨fun hwf hin => ?_, fun hout =>
    takesFault_of_block_out_of_range (i := .ldBVx x) rfl (Nat.succ_ne_zero 2) (Nat.lt_succ_of_le hout)⟩
  have hundreds := State.read_bcdStored hwf hin (s.reg x) (k := 0) (by decide)
  have tens := State.read_bcdStored hwf hin (s.reg x) (k := 1) (by decide)
  have ones := State.read_bcdStored hwf hin (s.reg x) (k := 2) (by decide)
  exact ⟨_, exec_ldBVx_in_range hin, hundreds, tens, ones, byte_eq_sum_of_digits hundreds tens ones,
    s.memSameOutside_storeAtIndex (bcdDigits (s.reg x)), rfl⟩

/-- Settles O36: the bytes from `I` on read as `V[0..x]`, and a block that passes 4096 faults. -/
theorem registerDumpStoresTheRegisters : Obligations.RegisterDumpStoresTheRegisters := by
  unfold Obligations.RegisterDumpStoresTheRegisters
  intro x s
  refine ⟨fun hwf hin => ?_, fun hout =>
    takesFault_of_block_out_of_range (i := .ldMemVx x) rfl (Nat.succ_ne_zero _) (Nat.lt_succ_of_le hout)⟩
  exact ⟨_, exec_ldMemVx_in_range hin, fun _ => State.read_dumped hwf hin, s.memSameOutside_dumped x, rfl⟩

/-- Settles O37: register `r` becomes byte `I + r` up to `x` and stays above it, and a block that passes 4096 faults. -/
theorem registerLoadFillsTheRegisters : Obligations.RegisterLoadFillsTheRegisters := by
  unfold Obligations.RegisterLoadFillsTheRegisters
  intro x s
  refine ⟨fun hin => ?_, fun hout =>
    takesFault_of_block_out_of_range (i := .ldVxMem x) rfl (Nat.succ_ne_zero _) (Nat.lt_succ_of_le hout)⟩
  exact ⟨_, exec_ldVxMem_in_range hin, fun r hr => (s.reg_loadRegs x r).trans (if_pos hr),
    fun r hr => (s.reg_loadRegs x r).trans (if_neg (Nat.not_le.mpr hr)), rfl⟩

/-- Settles O38: the load reads each register from the byte the dump stored it in, and leaves that byte. -/
theorem loadAfterDumpRestoresTheRegisters : Obligations.LoadAfterDumpRestoresTheRegisters := by
  unfold Obligations.LoadAfterDumpRestoresTheRegisters
  intro x s t u hwf hin hdump hi hmem
  rw [exec_ldMemVx_in_range hin] at hdump
  cases hdump
  refine ⟨u.loadRegs x, exec_ldVxMem_in_range (by rw [hi]; exact hin), fun r hr => ?_⟩
  have hbyte : u.mem.read (s.i.toNat + r.toNat) = s.reg r := by rw [hmem]; exact State.read_dumped hwf hin hr
  have hload : (u.loadRegs x).reg r = u.mem.read (u.i.toNat + r.toNat) := (u.reg_loadRegs x r).trans (if_pos hr)
  exact ⟨by rw [hload, hi, hbyte], hbyte⟩

/-! ## The writers of `I` -/

/-- R201: the sum of `I` and a zero-extended byte, as arithmetic of numbers modulo 2^16. -/
theorem word_add_zext_eq_ofNat (w : Word) (b : Byte) :
    w + b.setWidth 16 = BitVec.ofNat 16 ((w.toNat + b.toNat) % 65536) := by
  apply BitVec.eq_of_toNat_eq
  rw [BitVec.toNat_add, BitVec.toNat_setWidth_of_le (by decide), BitVec.toNat_ofNat, Nat.mod_mod]

/-- Settles O34: each writer completes as one write of its value to `I`. -/
theorem indexRegisterWrites : Obligations.IndexRegisterWrites := by
  unfold Obligations.IndexRegisterWrites
  intro nnn x s
  rw [← zext16_eq_ofNat, ← word_add_zext_eq_ofNat]
  exact ⟨exec_of_faultOf_none rfl, exec_of_faultOf_none rfl, exec_of_faultOf_none rfl⟩

end Sys2Proof.Machine

/-! PROOFS for spec/44_display.md: what clear-screen and one draw leave on the screen, and what a second draw does to it. -/

namespace Sys2Proof.Machine

/-! ## One draw -/

/-- R232, R53: a draw whose sprite bytes are all in range completes. -/
theorem exec_drw_in_range {x y : RegId} {n : Nat} {s : State} (h : n = 0 ∨ s.i.toNat + n ≤ 4096) :
    exec (.drw x y n) s = .next (s.drawSprite x y n) :=
  State.guardBlock_in_range _ h

/-- R232: a draw leaves 1 in VF and a pixel where sprite and screen met, or leaves 0 and they met nowhere. -/
theorem State.vf_drawSprite (s : State) (x y : RegId) (n : Nat) :
    ((s.drawSprite x y n).reg 15 = 1 ∧
        ∃ r c, r < 32 ∧ c < 64 ∧ s.drawnPixel x y n r c = true ∧ pixel s.fb r c = true) ∨
      ((s.drawSprite x y n).reg 15 = 0 ∧
        ∀ r c, r < 32 → c < 64 → s.drawnPixel x y n r c = true → pixel s.fb r c = false) := by
  obtain ⟨f, hvf, hf⟩ := s.flag_drawSprite x y n
  rw [hvf]
  obtain ⟨hmet, hone⟩ | ⟨hnone, hzero⟩ := flagByte_of_iff hf
  · exact .inl ⟨hone, hmet⟩
  · exact .inr ⟨hzero, fun r c hr hc hdrawn =>
      Bool.eq_false_iff.mpr fun hset => hnone ⟨r, c, hr, hc, hdrawn, hset⟩⟩

/-- Settles O41: the pixels and VF after one draw, and a sprite that passes 4096 faults. -/
theorem drawSpriteXorsPixelsAndFlagsCollision : Obligations.DrawSpriteXorsPixelsAndFlagsCollision := by
  unfold Obligations.DrawSpriteXorsPixelsAndFlagsCollision
  intro x y n s
  refine ⟨fun hin => ?_, takesFault_of_block_out_of_range (i := .drw x y n) rfl⟩
  exact ⟨_, exec_drw_in_range hin, fun _ _ => s.pixel_drawSprite x y n, s.vf_drawSprite x y n,
    fun _ => s.reg_drawSprite_other x y n, rfl⟩

/-! ## Two identical draws -/

/-- R233: the sprite's pixels depend on its `n` bytes alone. -/
theorem spritePixel_congr {m m' : Memory} {base n : Nat} (h : ∀ k, k < n → m'.read (base + k) = m.read (base + k))
    (cx cy r c : Nat) : spritePixel m' base n cx cy r c = spritePixel m base n cx cy r c := by
  unfold spritePixel
  by_cases hrow : cy ≤ r ∧ r < cy + n
  · rw [h (r - cy) (by omega)]
  · have hout : (decide (cy ≤ r) && decide (r < cy + n)) = false := by simpa using hrow
    simp only [hout, Bool.false_and]

section
variable {x y : RegId} {n : Nat} {s t u : State}

/-- A draw repeated at once is such a pair, unless VF, which the first draw writes, is an operand. -/
theorem drawsAgain_at_once (s : State) (hx : x ≠ 15) (hy : y ≠ 15) (hin : n = 0 ∨ s.i.toNat + n ≤ 4096) :
    DrawsAgain x y n s (s.drawSprite x y n) (s.drawSprite x y n) :=
  ⟨hin, exec_drw_in_range hin, rfl, s.reg_drawSprite_other x y n hx, s.reg_drawSprite_other x y n hy, rfl,
    fun _ _ => rfl⟩

/-- The two draws put the same sprite at the same place. -/
theorem drawnPixel_of_drawsAgain (h : DrawsAgain x y n s t u) (r c : Nat) :
    u.drawnPixel x y n r c = s.drawnPixel x y n r c := by
  obtain ⟨-, -, hi, hx, hy, -, hbytes⟩ := h
  unfold State.drawnPixel
  rw [hi, hx, hy]
  exact spritePixel_congr hbytes _ _ _ _

/-- The state after the first draw, by name. -/
theorem eq_drawSprite_of_drawsAgain (h : DrawsAgain x y n s t u) : t = s.drawSprite x y n := by
  obtain ⟨hin, hfirst, -⟩ := h
  rw [exec_drw_in_range hin] at hfirst
  cases hfirst
  rfl

/-- The second draw completes, as the first did: `I` and the number of bytes are the same. -/
theorem exec_drw_of_drawsAgain (h : DrawsAgain x y n s t u) : exec (.drw x y n) u = .next (u.drawSprite x y n) := by
  obtain ⟨hin, -, hi, -⟩ := h
  exact exec_drw_in_range (hi.symm ▸ hin)

/-- The screen the second draw meets: the first one's exclusive or. -/
theorem pixel_of_drawsAgain (h : DrawsAgain x y n s t u) {r c : Nat} (hr : r < 32) (hc : c < 64) :
    pixel u.fb r c = (pixel s.fb r c ^^ s.drawnPixel x y n r c) := by
  have ht := eq_drawSprite_of_drawsAgain h
  obtain ⟨-, -, -, -, -, hfb, -⟩ := h
  rw [hfb, ht, s.pixel_drawSprite x y n hr hc]

/-- Under a sprite pixel of value 1 the second draw meets the opposite of what the first met. -/
theorem pixel_eq_not_of_drawsAgain (h : DrawsAgain x y n s t u) {r c : Nat} (hr : r < 32) (hc : c < 64)
    (hdrawn : s.drawnPixel x y n r c = true) : pixel u.fb r c = !pixel s.fb r c := by
  rw [pixel_of_drawsAgain h hr hc, hdrawn, Bool.xor_true]

/-- R234: `p ^ s ^ s = p` at every pixel. -/
theorem fb_drawSprite_of_drawsAgain (h : DrawsAgain x y n s t u) : (u.drawSprite x y n).fb = s.fb := by
  apply frameBuffer_ext
  intro r c hr hc
  rw [u.pixel_drawSprite x y n hr hc, pixel_of_drawsAgain h hr hc, drawnPixel_of_drawsAgain h, Bool.xor_assoc,
    Bool.xor_self, Bool.xor_false]

end

/-- Settles O42: the second draw undoes the first, and collides with what the first turned on. -/
theorem drawingTwiceRestoresTheFrameBuffer : Obligations.DrawingTwiceRestoresTheFrameBuffer := by
  unfold Obligations.DrawingTwiceRestoresTheFrameBuffer
  intro x y n s t u h
  refine ⟨_, exec_drw_of_drawsAgain h, fb_drawSprite_of_drawsAgain h, ?_⟩
  have hvf := u.vf_drawSprite x y n
  simp only [drawnPixel_of_drawsAgain h] at hvf
  obtain ⟨hone, r, c, hr, hc, hdrawn, hset⟩ | ⟨hzero, hunset⟩ := hvf
  · refine .inl ⟨hone, r, c, hr, hc, hdrawn, ?_⟩
    rwa [pixel_eq_not_of_drawsAgain h hr hc hdrawn, Bool.not_eq_true'] at hset
  · refine .inr ⟨hzero, fun r c hr hc hdrawn => ?_⟩
    have hmet := hunset r c hr hc hdrawn
    rwa [pixel_eq_not_of_drawsAgain h hr hc hdrawn, Bool.not_eq_false'] at hmet

/-- Settles O56: no collision in the first draw means that every screen pixel under the sprite was off, so that the second
draw collides with each of the sprite's pixels. -/
theorem secondDrawFlagsAPixelAfterADrawWithoutCollision :
    Obligations.SecondDrawFlagsAPixelAfterADrawWithoutCollision := by
  unfold Obligations.SecondDrawFlagsAPixelAfterADrawWithoutCollision
  intro x y n s t u h hvf
  have hoff : ∀ r c, r < 32 → c < 64 → s.drawnPixel x y n r c = true → pixel s.fb r c = false := by
    rw [eq_drawSprite_of_drawsAgain h] at hvf
    obtain ⟨hone, -⟩ | ⟨-, hoff⟩ := s.vf_drawSprite x y n
    · exact absurd (hone.symm.trans hvf) (by decide)
    · exact hoff
  obtain ⟨w, hw, hfb, hsecond⟩ := drawingTwiceRestoresTheFrameBuffer x y n s t u h
  refine ⟨w, hw, hfb, ?_⟩
  obtain ⟨hone, r, c, hr, hc, hdrawn, -⟩ | ⟨hzero, hon⟩ := hsecond
  · exact .inl ⟨hone, r, c, hr, hc, hdrawn⟩
  · refine .inr ⟨hzero, fun r c hr hc => Bool.eq_false_iff.mpr fun hdrawn => ?_⟩
    exact Bool.false_ne_true ((hoff r c hr hc hdrawn).symm.trans (hon r c hr hc hdrawn))

/-- Refutes O43: the sprite byte 0x80 of the default font, at 0x09C, on a screen whose corner alone is on. The first draw
turns the corner off, so the second meets no set pixel and leaves VF at 0, though the sprite has a pixel of value 1. -/
theorem not_secondDrawFlagsEverySpriteWithAPixel : ¬ Obligations.SecondDrawFlagsEverySpriteWithAPixel := by
  unfold Obligations.SecondDrawFlagsEverySpriteWithAPixel
  intro h
  obtain ⟨w, hw, -, hvf⟩ := h 0 1 1 _ _ _ (drawsAgain_at_once
    { State.reset with i := 0x09C, fb := togglePixel FrameBuffer.blank 0 0 } (by decide) (by decide) (.inr (by decide)))
  cases hw
  obtain ⟨hone, -⟩ | ⟨-, hnone⟩ := hvf
  · exact absurd hone (by decide)
  · exact absurd (hnone 0 0 (by decide) (by decide)) (by decide)

/-! ## Clear-screen -/

/-- Settles O40: the blank grid, and no other write. -/
theorem clearScreenTurnsEveryPixelOff : Obligations.ClearScreenTurnsEveryPixelOff := by
  unfold Obligations.ClearScreenTurnsEveryPixelOff
  intro s
  exact ⟨_, exec_of_faultOf_none rfl, fun r c _ _ => pixel_blank r c, rfl⟩

end Sys2Proof.Machine

/-! PROOFS for spec/45_input_timer.md: what the key skips, the wait for a key and the timer forms read and write. -/

namespace Sys2Proof.Machine

/-! ## Wait for a key -/

section
variable {s : State} (x : RegId)

/-- R263: with a lowest pressed key the wait is one register write. -/
theorem State.waitKey_of_pressed {k : Nat} (h : s.lowestKey = some k) :
    s.waitKey x = s.setReg x (BitVec.ofNat 8 k) := by
  unfold State.waitKey
  rw [h]
  rfl

/-- R263: with no key pressed the wait goes back to its own address. -/
theorem State.waitKey_of_none_pressed (h : s.lowestKey = none) : s.waitKey x = s.setPc (s.pc - 2) := by
  unfold State.waitKey
  rw [h]
  rfl

end

/-- No key is pressed, slot by slot as `K` is read with a number for an index. -/
theorem State.lowestKey_eq_none_of_slots {s : State} (h : ∀ k, k < 16 → s.keys[k]? = some false) :
    s.lowestKey = none :=
  State.lowestKey_eq_none.mpr fun k =>
    Option.some.inj ((Vector.getElem?_eq_getElem k.isLt).symm.trans (h k.val k.isLt))

/-- Settles O45: the two cases are the two answers of the scan for the lowest pressed key. -/
theorem waitForKeyTakesTheLowestPressedKey : Obligations.WaitForKeyTakesTheLowestPressedKey := by
  unfold Obligations.WaitForKeyTakesTheLowestPressedKey
  intro x s
  constructor
  · intro k _ hdown hlower
    have hk : s.lowestKey = some k := State.lowestKey_eq_some.mpr ⟨hdown, hlower⟩
    exact writesReg_of_completed rfl (State.waitKey_of_pressed x hk)
  · intro hup
    have hnone : s.lowestKey = none := State.lowestKey_eq_none_of_slots hup
    exact (execLdVxK_eq x s).trans (congrArg Host.Outcome.next (State.waitKey_of_none_pressed x hnone))

/-! ## Key skips -/

theorem State.skipTarget_keyAt (s : State) (k : Nat) (want : Bool) :
    s.skipTarget (s.keyAt k == some want) = if s.keys[k]? = some want then s.pc + 2 else s.pc := by
  simp only [State.skipTarget, State.keyAt, beq_iff_eq]

section
variable {s : State} {x : RegId}

/-- R266: slots 0 to 15 are the input buffer. -/
theorem State.keyFault_in_range (h : (s.reg x).toNat < 16) : s.keyFault x = none := if_neg (Nat.not_le.mpr h)

theorem State.keyFault_out_of_range (h : 16 ≤ (s.reg x).toNat) :
    s.keyFault x = some (.keyIndexOutOfRange, some (s.reg x).toNat) := if_pos h

end

/-- Settles O44: below 16 a key skip completes with `PC` at the skip target of its test of the slot, and from 16 on the
index is the fault. -/
theorem keySkipsTestTheSlot : Obligations.KeySkipsTestTheSlot := by
  unfold Obligations.KeySkipsTestTheSlot
  intro x s
  constructor
  · intro hin
    have hfault := State.keyFault_in_range hin
    rw [← s.skipTarget_keyAt, ← s.skipTarget_keyAt]
    exact ⟨exec_of_faultOf_none hfault, exec_of_faultOf_none hfault⟩
  · intro hout
    have hfault := State.keyFault_out_of_range hout
    exact ⟨takesFault_of_faultOf hfault, takesFault_of_faultOf hfault⟩

/-! ## Timers -/

/-- Settles O46: one register write, and one write of each timer cell. -/
theorem timerInstructionsCopyOneByte : Obligations.TimerInstructionsCopyOneByte := by
  unfold Obligations.TimerInstructionsCopyOneByte
  intro x s
  exact ⟨writesReg_of_completed rfl rfl, exec_of_faultOf_none rfl, exec_of_faultOf_none rfl⟩

end Sys2Proof.Machine

/-! PROOFS for spec/60_exceptions.md: which faults there are and what they leave, an UNHANDLED word, and the actions of the
other agents. -/

namespace Sys2Proof.Machine

/-! ## Faults -/

/-- A step that halts took a fault: of the fetch, in the state as it was, or of the fetched instruction, in the state after
the advance (R304). -/
theorem step_halts {s t : State} (h : step s = .next t) (ht : t.halted = true) :
    (s.Fetchable ∧ ∃ r, t = (s.popEvent.advance s.fetchWord).halt r) ∨ (¬ s.Fetchable ∧ ∃ r, t = s.popEvent.halt r) := by
  obtain ⟨⟨hrun, -⟩, -⟩ := step_next_running h
  obtain ⟨hcycle, -⟩ := onlyAFatalFaultHalts.2 s t h ht
  cases step_cases h with
  | fetchFault _ hpc heq => exact .inr ⟨hpc, _, heq⟩
  | unhandled _ _ _ heq => rw [heq] at ht; exact absurd (hrun.symm.trans ht) Bool.false_ne_true
  | instr i _ hpc _ hexec =>
    obtain ⟨_, _, -, heq⟩ | ⟨-, rfl⟩ := exec_cases hexec
    · exact .inl ⟨hpc, _, heq⟩
    · rw [State.completed_halted] at ht
      exact absurd (hrun.symm.trans ht) Bool.false_ne_true
  | tick hev | keyWrite _ _ hev | frameRead hev | quit hev => rw [hcycle] at hev; cases hev

/-- Settles O6: a halt writes `HALTED` and `FAULT` alone, whichever of the two states it is taken in. -/
theorem faultsArePrecise : Obligations.FaultsArePrecise := by
  unfold Obligations.FaultsArePrecise
  intro s t h ht
  obtain ⟨hpc, r, rfl⟩ | ⟨hpc, r, rfl⟩ := step_halts h ht
  · exact .inl ⟨hpc, rfl⟩
  · exact .inr ⟨hpc, rfl⟩

/-- Settles O7: an instruction takes the fault of the table, or completes and then writes neither `HALTED` nor `FAULT`. -/
theorem eachInstructionFaultsExactlyAsTabled : Obligations.EachInstructionFaultsExactlyAsTabled := by
  unfold Obligations.EachInstructionFaultsExactlyAsTabled
  intro i s t h
  obtain ⟨code, info, hf, rfl⟩ | ⟨hf, rfl⟩ := exec_cases h
  · rw [hf]
    rfl
  · rw [hf]
    exact ⟨s.completed_halted, s.completed_fault⟩

/-- Settles O8: a fault entry is a next state as much as the completed state is. -/
theorem everyInstructionAnswersANextState : Obligations.EveryInstructionAnswersANextState := by
  unfold Obligations.EveryInstructionAnswersANextState
  intro i s
  cases hf : faultOf s i with
  | none => exact ⟨_, exec_of_faultOf_none hf⟩
  | some f =>
    obtain ⟨t, ht, -⟩ := takesFault_of_faultOf hf
    exact ⟨t, ht⟩

/-- Settles O2: the cycle advances, and the report is all that is executed. -/
theorem unhandledWordIsReportedAndSkipped : Obligations.UnhandledWordIsReportedAndSkipped := by
  unfold Obligations.UnhandledWordIsReportedAndSkipped
  intro s op hcycle hpc hop hdec
  rw [step_cycle hcycle, State.cycle_in_range (s := s.popEvent) hpc hop, hdec]
  rfl

/-! ## One action of another agent -/

theorem step_of_nextEvent {s : State} {e : Event} (hrun : s.Running) (hev : s.nextEvent = e) :
    step s = s.popEvent.act e := hev ▸ step_running hrun

/-- Settles O5: the quit sets the mark that every later step looks for. -/
theorem quitEndsTheRunWithoutFault : Obligations.QuitEndsTheRunWithoutFault := by
  unfold Obligations.QuitEndsTheRunWithoutFault
  intro s hrun hev
  refine ⟨s.popEvent.quit, step_of_nextEvent hrun hev, rfl, hrun.1, fun u hu => ?_⟩
  obtain ⟨⟨-, hended⟩, -⟩ := step_next_running hu
  cases hended

/-- Settles O49: slot `k` of the vector is set, and the other slots read as before. -/
theorem keyWriteSetsOneSlot : Obligations.KeyWriteSetsOneSlot := by
  unfold Obligations.KeyWriteSetsOneSlot
  intro s k v hrun hev
  exact ⟨s.popEvent.keyWrite k v, step_of_nextEvent hrun hev, Vector.getElem?_set_self k.isLt,
    fun _ hj => Vector.getElem?_set_ne k.isLt hj.symm, rfl⟩

/-- Settles O50: the picture put out is the grid itself. -/
theorem frameReadPutsOutTheWholeGrid : Obligations.FrameReadPutsOutTheWholeGrid := by
  unfold Obligations.FrameReadPutsOutTheWholeGrid
  intro s hrun hev
  exact step_of_nextEvent hrun hev

theorem exec_keys {i : Instr} {s t : State} (h : exec i s = .next t) : t.keys = s.keys := by
  obtain ⟨_, _, -, rfl⟩ | ⟨-, rfl⟩ := exec_cases h
  · rfl
  · exact s.completed_keys

/-- Settles O52: of the ways to step, the key write alone writes `K`. -/
theorem onlyKeyWritesChangeTheKeys : Obligations.OnlyKeyWritesChangeTheKeys := by
  unfold Obligations.OnlyKeyWritesChangeTheKeys
  intro s t h hne
  cases step_cases h with
  | keyWrite k v hev => exact absurd hev (hne k v)
  | tick _ ht => rw [ht, State.tick_eq]; rfl
  | instr i _ _ _ hexec => exact exec_keys (s := s.popEvent.advance s.fetchWord) hexec
  | frameRead _ ht | quit _ ht | fetchFault _ _ ht | unhandled _ _ _ ht => rw [ht]; rfl

/-! ## Ticks -/

/-- A timer cell that stops at 0 is subtraction of natural numbers (R316, R317). -/
theorem byte_decrement_eq_ofNat (b : Byte) : (if b = 0 then b else b - 1) = BitVec.ofNat 8 (b.toNat - 1) := by
  by_cases h : b = 0
  · rw [if_pos h, h]
    rfl
  · have hne : b.toNat ≠ 0 := BitVec.toNat_ne_iff_ne.mpr h
    have hsub : (b - 1).toNat = b.toNat - 1 := BitVec.toNat_sub_of_le (Nat.pos_of_ne_zero hne)
    rw [if_neg h, ← hsub, BitVec.ofNat_toNat, BitVec.setWidth_eq]

/-- Settles O47: both timer cells count down to 0 and stay there, and the tone is R317's. -/
theorem tickDecrementsNonzeroTimers : Obligations.TickDecrementsNonzeroTimers := by
  unfold Obligations.TickDecrementsNonzeroTimers
  intro s hrun hev
  rw [step_of_nextEvent hrun hev, ← byte_decrement_eq_ofNat, ← byte_decrement_eq_ofNat]
  exact congrArg Host.Outcome.next s.popEvent.tick_eq

section
variable (s : State)

theorem State.tick_st : s.tick.st = BitVec.ofNat 8 (s.st.toNat - 1) := by
  rw [State.tick_eq, ← byte_decrement_eq_ofNat]

theorem State.tick_output : s.tick.output = if s.st = 0 then s.output else .tone :: s.output := by rw [State.tick_eq]

theorem State.tick_pending : s.tick.pending = s.pending := by rw [State.tick_eq]

theorem State.tick_running : s.tick.Running ↔ s.Running := by rw [State.tick_eq]; rfl

theorem State.tick_st_toNat : s.tick.st.toNat = s.st.toNat - 1 := by
  have hlt : s.st.toNat < 256 := s.st.isLt
  rw [State.tick_st, BitVec.toNat_ofNat]
  exact Nat.mod_eq_of_lt (by omega)

theorem tones_cons_tone (out : List Output) : tones (.tone :: out) = tones out + 1 := List.countP_cons_of_pos rfl

/-- What the sound timer still owes and the tones put out so far have the same sum after a tick. -/
theorem State.tick_tones_add_st : tones s.tick.output + s.tick.st.toNat = tones s.output + s.st.toNat := by
  rw [State.tick_output, State.tick_st_toNat]
  by_cases h : s.st = 0
  · rw [if_pos h, h]
    rfl
  · have hne : s.st.toNat ≠ 0 := BitVec.toNat_ne_iff_ne.mpr h
    rw [if_neg h, tones_cons_tone]
    omega

end

/-- Settles O48, by induction on the number of ticks: each keeps the sum of tones and `ST`, and `ST` reaches 0. -/
theorem soundTimerGivesExactlyItsCountOfTones : Obligations.SoundTimerGivesExactlyItsCountOfTones := by
  unfold Obligations.SoundTimerGivesExactlyItsCountOfTones
  intro n rest
  induction n with
  | zero =>
    intro s _ hpend hst
    have hst0 : s.st = 0 := BitVec.eq_of_toNat_eq (Nat.le_zero.mp hst)
    exact ⟨s, core_run_zero s, hst0, by rw [hst0]; rfl, hpend⟩
  | succ n ih =>
    intro s hrun hpend hst
    have hcons : s.pending = .tick :: (List.replicate n .tick ++ rest) := hpend
    have hev : s.nextEvent = .tick := by rw [State.nextEvent, hcons]; rfl
    have hrun' : s.popEvent.tick.Running := s.popEvent.tick_running.mpr hrun
    have hpend' : s.popEvent.tick.pending = List.replicate n .tick ++ rest :=
      s.popEvent.tick_pending.trans (congrArg List.tail hcons)
    have hst' : s.popEvent.tick.st.toNat ≤ n := by
      rw [State.tick_st_toNat]
      exact Nat.sub_le_of_le_add hst
    obtain ⟨t, ht, hst0, htones, hrest⟩ := ih s.popEvent.tick hrun' hpend' hst'
    exact ⟨t, (core_run_succ n (step_of_nextEvent hrun hev)).trans ht, hst0,
      htones.trans s.popEvent.tick_tones_add_st, hrest⟩

end Sys2Proof.Machine

/-! PROOFS for spec/70_reset_and_hazards.md: the state that `init` makes of a font and an image. -/

namespace Sys2Proof.Machine

/-- R52: after a run of writes each byte of it stands at its own address, and every other address reads as before. -/
theorem Memory.read_writeBlock {m : Memory} (h : m.wf = true) {base : Nat} {bytes : List Byte}
    (hfit : base + bytes.length ≤ 4096) (a : Nat) :
    (m.writeBlock base bytes).read a =
      if base ≤ a ∧ a < base + bytes.length then bytes.getD (a - base) 0 else m.read a := by
  split
  · next hin =>
    obtain ⟨k, rfl⟩ := Nat.exists_eq_add_of_le hin.1
    have hk : k < bytes.length := by omega
    rw [Memory.read_writeBlock_inside h hk hfit, Nat.add_sub_cancel_left, List.getD_eq_getElem bytes 0 hk]
  · next hout => exact Memory.read_writeBlock_other m (by omega)

section
variable (font : Vector Byte 80) {image : List Byte}

/-- The font ends below 4096, so the memory that holds it alone is canonical (log entry 12). -/
theorem Memory.wf_writeBlock_font : (Memory.writeBlock [] Config.fontBase font.toList).wf = true :=
  Memory.wf_writeBlock Memory.wf_nil (by rw [Vector.length_toList]; decide)

/-- R34: any font replaces the default one whole, and 0 stands everywhere else. -/
theorem Memory.read_writeBlock_font (a : Nat) :
    (Memory.writeBlock [] Config.fontBase font.toList).read a =
      if 0x050 ≤ a ∧ a < 0x0A0 then font.toList.getD (a - 0x050) 0 else 0 := by
  have hlen : font.toList.length = 80 := Vector.length_toList
  rw [Memory.read_writeBlock Memory.wf_nil (by rw [hlen]; decide), hlen]
  refine ite_congr rfl (fun _ => rfl) fun hout => ?_
  exact (Memory.unlisted_eq a).trans (if_neg hout)

/-- 3584 bytes from 0x200 on end at 4096. -/
theorem image_fits (hlen : image.length ≤ 3584) : Config.loadAddr + image.length ≤ 4096 :=
  Nat.add_le_add_left hlen 0x200

theorem State.loaded_mem_wf (hlen : image.length ≤ 3584) : (State.loaded font image).mem.wf = true :=
  Memory.wf_writeBlock (Memory.wf_writeBlock_font font) (image_fits hlen)

/-- R342: the font and the image lie apart, so the image, loaded last, hides no byte of the font. -/
theorem State.loaded_mem_read (hlen : image.length ≤ 3584) (a : Nat) :
    (State.loaded font image).mem.read a =
      if 0x050 ≤ a ∧ a < 0x0A0 then font.toList.getD (a - 0x050) 0
      else if 0x200 ≤ a ∧ a < 0x200 + image.length then image.getD (a - 0x200) 0
      else 0 := by
  have hload : (State.loaded font image).mem.read a =
      if 0x200 ≤ a ∧ a < 0x200 + image.length then image.getD (a - 0x200) 0
      else (Memory.writeBlock [] Config.fontBase font.toList).read a :=
    Memory.read_writeBlock (Memory.wf_writeBlock_font font) (image_fits hlen) a
  rw [hload, Memory.read_writeBlock_font]
  by_cases hfont : 0x050 ≤ a ∧ a < 0x0A0
  · rw [if_neg (by omega), if_pos hfont, if_pos hfont]
  · rw [if_neg hfont, if_neg hfont]

theorem init_of_too_large (hlen : 3584 < image.length) : init font image = .refused (.imageTooLarge image.length) :=
  if_pos hlen

theorem init_of_fits (hlen : image.length ≤ 3584) : init font image = .next (State.loaded font image) :=
  if_neg (Nat.not_lt.mpr hlen)

end

/-- Settles O19: outside memory the loaded state is the reset state of O18, and memory is two runs of writes that lie
apart. -/
theorem initLoadsFontAndImage : Obligations.InitLoadsFontAndImage := by
  unfold Obligations.InitLoadsFontAndImage
  intro font image
  obtain ⟨hreg, hi, hpc, hsp, hstack, hopcode, hdt, hst, hfb, hkeys, hhalted, hfault, -⟩ := resetHoldsTheInitialValues
  exact ⟨init_of_too_large font, fun hlen => ⟨State.loaded font image, init_of_fits font hlen, hreg, hi, hpc, hsp, hstack,
    hopcode, hdt, hst, hfb, hkeys, hhalted, hfault, State.loaded_mem_wf font hlen,
    fun a _ => State.loaded_mem_read font hlen a⟩⟩

end Sys2Proof.Machine
